-- ==== Sys2Proof/Word.lean ====
section
/-! DEFINITION. The word types of the FBP (00_scope.md R9) and nothing else: what is computed from them stands in
Decode.lean and under Machine/. -/

namespace Sys2Proof

/-- A framebuffer or bitmap-source cell, or a payload byte: 8 bits (00_scope.md R9). -/
abbrev Byte := BitVec 8

/-- A register of the host window: 32 bits (00_scope.md R9, 10_state.md R22). -/
abbrev Word32 := BitVec 32

/-- A command word: 64 bits (30_encoding.md R67). -/
abbrev Word64 := BitVec 64

end Sys2Proof
end

