-- ==== Sys2Proof/Syntax.lean ====
section
/-! DEFINITION. The commands of the FBP: one constructor per row of spec/opcode_table.json (30_encoding.md R72). -/

namespace Sys2Proof

/-- A colour operand (00_scope.md R12, 30_encoding.md R70): Black = 0, White = 1. -/
inductive Colour where
  | black
  | white
  deriving DecidableEq, Repr

/-- A command with its operands as mathematical integers (30_encoding.md R69, R71): coordinates, sizes and radii
come from 8-bit fields, a byte index and a source address from the 16-bit field, a flag from `E[0]`.
WellFormed.lean says which operands fit their fields [log entry 17]. -/
inductive Instr where
  | nop
  | clearErr
  | setPixel (x y : Nat) (c : Colour)
  | fill (c : Colour)
  | readPixel (x y : Nat)
  | readByte (index : Nat)
  | drawBitmap (x y w h src : Nat) (c : Colour)
  | drawLine (x1 y1 x2 y2 : Nat) (c : Colour)
  | drawRect (x1 y1 x2 y2 : Nat) (c : Colour)
  | fillRect (x1 y1 x2 y2 : Nat) (c : Colour)
  | drawCircle (cx cy r : Nat) (c : Colour)
  | fillCircle (cx cy r : Nat) (c : Colour)
  | setCursor (x y : Nat)
  | getCursor
  | setRotated (rot : Bool)
  | getRotated
  | init (bind : Bool)
  | flush
  deriving DecidableEq, Repr

end Sys2Proof
end

