-- ==== Sys2Proof/WellFormed.lean ====
section
/-! DEFINITION. Which commands can be encoded: every operand fits its field (30_encoding.md R68, R69, R71; R78: "An
operand that does not fit its field is an assembly error; an assembler must not truncate it"). -/

namespace Sys2Proof

/-- The operand fits an 8-bit field (`A`, `B`, `C`, `D`). -/
abbrev Fits8 (n : Nat) : Prop := n < 256

/-- The operand fits the 16-bit field `E`. -/
abbrev Fits16 (n : Nat) : Prop := n < 65536

/-- Every operand of the command fits the field that 30_encoding.md R72 gives it. -/
def Instr.wellFormed : Instr → Bool
  | .nop => true
  | .clearErr => true
  | .setPixel x y _ => decide (Fits8 x ∧ Fits8 y)
  | .fill _ => true
  | .readPixel x y => decide (Fits8 x ∧ Fits8 y)
  | .readByte index => decide (Fits16 index)
  | .drawBitmap x y w h src _ => decide (Fits8 x ∧ Fits8 y ∧ Fits8 w ∧ Fits8 h ∧ Fits16 src)
  | .drawLine x1 y1 x2 y2 _ => decide (Fits8 x1 ∧ Fits8 y1 ∧ Fits8 x2 ∧ Fits8 y2)
  | .drawRect x1 y1 x2 y2 _ => decide (Fits8 x1 ∧ Fits8 y1 ∧ Fits8 x2 ∧ Fits8 y2)
  | .fillRect x1 y1 x2 y2 _ => decide (Fits8 x1 ∧ Fits8 y1 ∧ Fits8 x2 ∧ Fits8 y2)
  | .drawCircle cx cy r _ => decide (Fits8 cx ∧ Fits8 cy ∧ Fits8 r)
  | .fillCircle cx cy r _ => decide (Fits8 cx ∧ Fits8 cy ∧ Fits8 r)
  | .setCursor x y => decide (Fits8 x ∧ Fits8 y)
  | .getCursor => true
  | .setRotated _ => true
  | .getRotated => true
  | .init _ => true
  | .flush => true

end Sys2Proof
end

