-- ==== Sys2Proof/Decode.lean ====
section
/-! DEFINITION. Decoding and encoding of command words (30_encoding.md R67 to R77). The decoder is total on every
64-bit word and rejects by name; the encoder is written from the same field table (R68). -/

namespace Sys2Proof

/-- Why a word is no command (30_encoding.md R73). -/
inductive DecodeError where
  /-- The opcode byte is unassigned (R75). -/
  | illegalOp
  /-- A reserved-must-be-zero bit is set (R74). -/
  | rsvNonzero
  deriving DecidableEq, Repr

/-! ## The fields of format C64 (30_encoding.md R68) -/

/-- `OP`, bits 63:56. -/
def opField (w : Word64) : BitVec 8 := w.extractLsb' 56 8
/-- `K`, bit 55. -/
def kField (w : Word64) : BitVec 1 := w.extractLsb' 55 1
/-- `A`, bits 47:40. -/
def aField (w : Word64) : BitVec 8 := w.extractLsb' 40 8
/-- `B`, bits 39:32. -/
def bField (w : Word64) : BitVec 8 := w.extractLsb' 32 8
/-- `C`, bits 31:24. -/
def cField (w : Word64) : BitVec 8 := w.extractLsb' 24 8
/-- `D`, bits 23:16. -/
def dField (w : Word64) : BitVec 8 := w.extractLsb' 16 8
/-- `E`, bits 15:0. -/
def eField (w : Word64) : BitVec 16 := w.extractLsb' 0 16

/-- The colour bit (30_encoding.md R70, 00_scope.md R12). -/
def Colour.toBit : Colour → BitVec 1
  | .black => 0#1
  | .white => 1#1

/-- The colour a bit stands for (00_scope.md R12). -/
def Colour.ofBit (b : BitVec 1) : Colour := if b = 1#1 then .white else .black

/-- A flag operand is `E[0]` (30_encoding.md R71). -/
def flagOf (e : BitVec 16) : Bool := e.getLsbD 0

/-- A flag operand as the field `E`. -/
def flagField (b : Bool) : BitVec 16 := if b then 1#16 else 0#16

/-! ## The opcode map (30_encoding.md R72, R73) -/

/-- The assigned opcodes, in the table's order. -/
inductive Opcode where
  | nop | clearErr
  | setPixel | fill | readPixel | readByte | drawBitmap
  | drawLine | drawRect | fillRect | drawCircle | fillCircle
  | setCursor | getCursor | setRotated | getRotated
  | init | flush
  deriving DecidableEq, Repr

/-- The opcode byte of each row (R72). -/
def Opcode.byte : Opcode → BitVec 8
  | .nop => 0x00#8
  | .clearErr => 0x01#8
  | .setPixel => 0x10#8
  | .fill => 0x11#8
  | .readPixel => 0x12#8
  | .readByte => 0x13#8
  | .drawBitmap => 0x14#8
  | .drawLine => 0x20#8
  | .drawRect => 0x21#8
  | .fillRect => 0x22#8
  | .drawCircle => 0x23#8
  | .fillCircle => 0x24#8
  | .setCursor => 0x30#8
  | .getCursor => 0x31#8
  | .setRotated => 0x32#8
  | .getRotated => 0x33#8
  | .init => 0x40#8
  | .flush => 0x41#8

/-- Every row of the table, in its order. -/
def Opcode.all : List Opcode :=
  [.nop, .clearErr, .setPixel, .fill, .readPixel, .readByte, .drawBitmap, .drawLine, .drawRect, .fillRect,
   .drawCircle, .fillCircle, .setCursor, .getCursor, .setRotated, .getRotated, .init, .flush]

/-- The row whose opcode byte is `b`; none for an unassigned value (R75). -/
def Opcode.ofByte (b : BitVec 8) : Option Opcode := Opcode.all.find? (fun o => o.byte = b)

/-- The row's match word (R73): the opcode byte in bits 63:56, everything else 0. -/
def Opcode.matchWord : Opcode → Word64
  | .nop => 0x0000000000000000#64
  | .clearErr => 0x0100000000000000#64
  | .setPixel => 0x1000000000000000#64
  | .fill => 0x1100000000000000#64
  | .readPixel => 0x1200000000000000#64
  | .readByte => 0x1300000000000000#64
  | .drawBitmap => 0x1400000000000000#64
  | .drawLine => 0x2000000000000000#64
  | .drawRect => 0x2100000000000000#64
  | .fillRect => 0x2200000000000000#64
  | .drawCircle => 0x2300000000000000#64
  | .fillCircle => 0x2400000000000000#64
  | .setCursor => 0x3000000000000000#64
  | .getCursor => 0x3100000000000000#64
  | .setRotated => 0x3200000000000000#64
  | .getRotated => 0x3300000000000000#64
  | .init => 0x4000000000000000#64
  | .flush => 0x4100000000000000#64

/-- The row's mask (R73): the opcode bits and every must-be-zero bit. -/
def Opcode.mask : Opcode → Word64
  | .nop => 0xFFFFFFFFFFFFFFFF#64
  | .clearErr => 0xFFFFFFFFFFFFFFFF#64
  | .setPixel => 0xFF7F0000FFFFFFFF#64
  | .fill => 0xFF7FFFFFFFFFFFFF#64
  | .readPixel => 0xFFFF0000FFFFFFFF#64
  | .readByte => 0xFFFFFFFFFFFF0000#64
  | .drawBitmap => 0xFF7F000000000000#64
  | .drawLine => 0xFF7F00000000FFFF#64
  | .drawRect => 0xFF7F00000000FFFF#64
  | .fillRect => 0xFF7F00000000FFFF#64
  | .drawCircle => 0xFF7F000000FFFFFF#64
  | .fillCircle => 0xFF7F000000FFFFFF#64
  | .setCursor => 0xFFFF0000FFFFFFFF#64
  | .getCursor => 0xFFFFFFFFFFFFFFFF#64
  | .setRotated => 0xFFFFFFFFFFFFFFFE#64
  | .getRotated => 0xFFFFFFFFFFFFFFFF#64
  | .init => 0xFFFFFFFFFFFFFFFE#64
  | .flush => 0xFFFFFFFFFFFFFFFF#64

/-- `RSVMASK(op)`: the row's mask with bits 63:56 cleared (R73). -/
def Opcode.rsvMask (o : Opcode) : Word64 := o.mask &&& 0x00FFFFFFFFFFFFFF#64

/-- The row's command with the operands that R72 names, taken from the word's fields. -/
def Opcode.operands (w : Word64) : Opcode → Instr
  | .nop => .nop
  | .clearErr => .clearErr
  | .setPixel => .setPixel (aField w).toNat (bField w).toNat (Colour.ofBit (kField w))
  | .fill => .fill (Colour.ofBit (kField w))
  | .readPixel => .readPixel (aField w).toNat (bField w).toNat
  | .readByte => .readByte (eField w).toNat
  | .drawBitmap =>
    .drawBitmap (aField w).toNat (bField w).toNat (cField w).toNat (dField w).toNat (eField w).toNat
      (Colour.ofBit (kField w))
  | .drawLine =>
    .drawLine (aField w).toNat (bField w).toNat (cField w).toNat (dField w).toNat (Colour.ofBit (kField w))
  | .drawRect =>
    .drawRect (aField w).toNat (bField w).toNat (cField w).toNat (dField w).toNat (Colour.ofBit (kField w))
  | .fillRect =>
    .fillRect (aField w).toNat (bField w).toNat (cField w).toNat (dField w).toNat (Colour.ofBit (kField w))
  | .drawCircle => .drawCircle (aField w).toNat (bField w).toNat (cField w).toNat (Colour.ofBit (kField w))
  | .fillCircle => .fillCircle (aField w).toNat (bField w).toNat (cField w).toNat (Colour.ofBit (kField w))
  | .setCursor => .setCursor (aField w).toNat (bField w).toNat
  | .getCursor => .getCursor
  | .setRotated => .setRotated (flagOf (eField w))
  | .getRotated => .getRotated
  | .init => .init (flagOf (eField w))
  | .flush => .flush

/-- Decode (R73): the opcode is looked up first, the reserved bits are examined only for an assigned opcode. -/
def decode (w : Word64) : Except DecodeError Instr :=
  match Opcode.ofByte (opField w) with
  | none => .error .illegalOp
  | some o => if w &&& o.rsvMask ≠ 0#64 then .error .rsvNonzero else .ok (o.operands w)

/-! ## The encoder -/

/-- One command word from its fields (R68); `RSV` is 0 in every command. -/
def packC64 (op : BitVec 8) (k : BitVec 1) (a b c d : BitVec 8) (e : BitVec 16) : Word64 :=
  op ++ k ++ 0#7 ++ a ++ b ++ c ++ d ++ e

/-- The row a command belongs to. -/
def Instr.opcode : Instr → Opcode
  | .nop => .nop
  | .clearErr => .clearErr
  | .setPixel _ _ _ => .setPixel
  | .fill _ => .fill
  | .readPixel _ _ => .readPixel
  | .readByte _ => .readByte
  | .drawBitmap _ _ _ _ _ _ => .drawBitmap
  | .drawLine _ _ _ _ _ => .drawLine
  | .drawRect _ _ _ _ _ => .drawRect
  | .fillRect _ _ _ _ _ => .fillRect
  | .drawCircle _ _ _ _ => .drawCircle
  | .fillCircle _ _ _ _ => .fillCircle
  | .setCursor _ _ => .setCursor
  | .getCursor => .getCursor
  | .setRotated _ => .setRotated
  | .getRotated => .getRotated
  | .init _ => .init
  | .flush => .flush

/-- The word of a well-formed command: its operands in the fields R72 names, every other field 0 (R79). An operand
that does not fit has no encoding: WellFormed.lean refuses it first (R78). -/
def encode (i : Instr) : Word64 :=
  let op := i.opcode.byte
  match i with
  | .nop => packC64 op 0 0 0 0 0 0
  | .clearErr => packC64 op 0 0 0 0 0 0
  | .setPixel x y c => packC64 op c.toBit (.ofNat 8 x) (.ofNat 8 y) 0 0 0
  | .fill c => packC64 op c.toBit 0 0 0 0 0
  | .readPixel x y => packC64 op 0 (.ofNat 8 x) (.ofNat 8 y) 0 0 0
  | .readByte index => packC64 op 0 0 0 0 0 (.ofNat 16 index)
  | .drawBitmap x y w h src c =>
    packC64 op c.toBit (.ofNat 8 x) (.ofNat 8 y) (.ofNat 8 w) (.ofNat 8 h) (.ofNat 16 src)
  | .drawLine x1 y1 x2 y2 c => packC64 op c.toBit (.ofNat 8 x1) (.ofNat 8 y1) (.ofNat 8 x2) (.ofNat 8 y2) 0
  | .drawRect x1 y1 x2 y2 c => packC64 op c.toBit (.ofNat 8 x1) (.ofNat 8 y1) (.ofNat 8 x2) (.ofNat 8 y2) 0
  | .fillRect x1 y1 x2 y2 c => packC64 op c.toBit (.ofNat 8 x1) (.ofNat 8 y1) (.ofNat 8 x2) (.ofNat 8 y2) 0
  | .drawCircle cx cy r c => packC64 op c.toBit (.ofNat 8 cx) (.ofNat 8 cy) (.ofNat 8 r) 0 0
  | .fillCircle cx cy r c => packC64 op c.toBit (.ofNat 8 cx) (.ofNat 8 cy) (.ofNat 8 r) 0 0
  | .setCursor x y => packC64 op 0 (.ofNat 8 x) (.ofNat 8 y) 0 0 0
  | .getCursor => packC64 op 0 0 0 0 0 0
  | .setRotated rot => packC64 op 0 0 0 0 0 (flagField rot)
  | .getRotated => packC64 op 0 0 0 0 0 0
  | .init bind => packC64 op 0 0 0 0 0 (flagField bind)
  | .flush => packC64 op 0 0 0 0 0 0

/-- The command word whose bits are those of `w` below `nbits` and 0 above, bit 0 the least significant bit of CMD0
(20_memory.md R52: CMD0 is bits 31:0 and CMD1 bits 63:32) [log entry 20]. -/
def tableWord (nbits w : Nat) : Word64 := BitVec.ofNat 64 (w % 2 ^ nbits)

/-- The command the decoder reads from a word numbered as spec/opcode_table.json numbers it; none where it refuses. -/
def decodeTableWord (nbits w : Nat) : Option Instr :=
  match decode (tableWord nbits w) with
  | .ok i => some i
  | .error _ => none

end Sys2Proof
end

