-- ==== Sys2Proof/Config.lean ====
section
/-! DEFINITION. What an implementation fixes (00_scope.md R7, the parameters) and the free values: what the spec
leaves open is an opaque constant here, so that nothing in Lean can evaluate it. -/

namespace Sys2Proof

/-- `HEIGHT` (00_scope.md R7): one of 32, 64 or 128 rows. -/
inductive PanelHeight where
  | rows32
  | rows64
  | rows128
  deriving DecidableEq, Repr

/-- `TRANSPORT` (00_scope.md R7): SPI xor I2C. -/
inductive Transport where
  | spi
  | i2c
  deriving DecidableEq, Repr

/-- `FLUSH_BEFORE_READY` (00_scope.md R7, 92_eei_decisions.md D25). -/
inductive FlushPolicy where
  | reject
  | emit
  deriving DecidableEq, Repr

/-- The build-time parameters of one FBP (00_scope.md R7) and the base of its host window (20_memory.md R48).
Every legal configuration is a value of this type and no other is: `WIDTH` is kept as `WIDTH - 1` below 128, so an
illegal width has no value (60_exceptions.md R160; Machine/Configure.lean builds one from raw numbers or says why not).
The parameters are no state (10_state.md R20); State carries them because `step` takes nothing else [log entry 1]. -/
structure Config where
  /-- `WIDTH - 1`: WIDTH is 1..128. -/
  widthPred : Fin 128
  panelHeight : PanelHeight
  xOffset : BitVec 8
  yOffset : BitVec 8
  transport : Transport
  /-- Used only by the external Transport Adapter; the FBP never reads it (R7). -/
  i2cAddr : BitVec 7
  /-- `MIRROR_H`, `MIRROR_V` and `INVERT` act on nothing inside the FBP (42_transforms.md R132). -/
  mirrorH : Bool
  mirrorV : Bool
  invert : Bool
  /-- The configuration bytes INIT sends, in order (43_sequencer.md R137). -/
  initSeq : List Byte
  colStart : BitVec 7
  flushBeforeReady : FlushPolicy
  /-- Host address of the register window, chosen by the platform (20_memory.md R48). -/
  fbpBase : Nat
  deriving DecidableEq, Repr

/-- FREE VALUE [log entry 2]: the value framebuffer byte `i` holds after block reset number `epoch`, until written.
"Each byte holds some value fixed at reset, stable until written, with no law relating bytes" (10_state.md R40,
70_reset_and_hazards.md R176). -/
opaque Config.fbDraw (epoch i : Nat) : Byte

/-- FREE VALUE [log entry 3]: what the platform loaded at SRC address `a` before the FBP's reset, until the
platform writes it (20_memory.md R47; an open parameter of 92_eei_decisions.md). -/
opaque Config.srcContents (a : Nat) : Byte

/-- FREE VALUE [log entry 4]: which of the bytes held since its submission the DRAW_BITMAP that is the engine's
command number `command` reads at a raced SRC address `a` (20_memory.md R64: "the old or the new value"). -/
opaque Config.srcPick (command a : Nat) : Nat

/-- FREE VALUE [log entry 21]: whether the bus transfer of accepted message number `n` succeeds, where the adapter accepts
in a move that does not say so. "The FBP never learns whether the bus transfer succeeded" (43_sequencer.md R134, R146;
70_reset_and_hazards.md R188). -/
opaque Config.transferOutcome (n : Nat) : Bool

/-- OPEN [log entry 5]: the configuration bytes of the FBP in `State.reset` (43_sequencer.md R137: "The bytes are in no
source"). -/
opaque Config.platformInitSeq : List Byte

/-- OPEN [log entry 5]: the base of the window of the FBP in `State.reset` (20_memory.md R48). -/
opaque Config.platformBase : Nat

/-- The default column of 00_scope.md R7, with the two parameters that have no default left open. -/
def Config.default : Config where
  widthPred := 127
  panelHeight := .rows64
  xOffset := 0#8
  yOffset := 0#8
  transport := .spi
  i2cAddr := 0x3C#7
  mirrorH := false
  mirrorV := false
  invert := false
  initSeq := Config.platformInitSeq
  colStart := 0#7
  flushBeforeReady := .reject
  fbpBase := Config.platformBase

end Sys2Proof
end

