-- ==== Sys2Proof/Machine/State.lean ====
section
/-! DEFINITION. The whole state of one FBP with the agents around it, as plain data, and the state after reset
(10_state.md R20, R40; 00_scope.md R14). -/

namespace Sys2Proof.Machine

/-- `ROTATION` (10_state.md R20, R30). -/
inductive Rotation where
  | normal
  | rotated180
  deriving DecidableEq, Repr

/-- `PSTATE` (10_state.md R20, R31). -/
inductive PState where
  | uninitialized
  | resetting
  | configuring
  | ready
  deriving DecidableEq, Repr

/-- The command errors (60_exceptions.md R154). Their codes are in Machine/Flags.lean. -/
inductive CmdError where
  | illegalOp
  | rsvNonzero
  | notReady
  | overrun
  deriving DecidableEq, Repr

/-- The kinds of output message (43_sequencer.md R133). -/
inductive MsgKind where
  | reset
  | writeCommand
  | writeData
  | delay
  deriving DecidableEq, Repr

/-- An output message (43_sequencer.md R133); its length is the payload's. -/
structure Message where
  kind : MsgKind
  payload : List Byte
  deriving DecidableEq, Repr

/-- The phase tag of a message, which the adapter never sees (43_sequencer.md R140) [log entry 19]. -/
inductive Phase where
  | reset
  | config
  | page
  deriving DecidableEq, Repr

/-- A message of OUTQ with its tag. -/
structure Tagged where
  phase : Phase
  msg : Message
  deriving DecidableEq, Repr

/-- A memory: its listed bytes by address, addresses strictly rising (`Mem.Wf`, Machine/Ops.lean). An unlisted address
holds no value anybody has written since the machine began; what it then reads as is the memory's draw
(`fbDraw`, `srcContents` of Config.lean) [log entry 11]. -/
abbrev Mem := List Host.Cell

/-- One access of the host to its address space (10_state.md R22, 20_memory.md R48, R53): an absolute address and the
access's width in bits. -/
inductive HostAccess where
  | read (addr bits : Nat)
  | write (addr bits : Nat) (value : Word32)
  deriving DecidableEq, Repr

/-- What the host got from one admitted read: the register's offset and the value. -/
structure HostRead where
  offset : Nat
  value : Word32
  deriving DecidableEq, Repr

/-- What the adapter accepted, and whether the bus transfer then succeeded, which the FBP never learns
(43_sequencer.md R134, R146). -/
structure Accepted where
  msg : Message
  transferOk : Bool
  deriving DecidableEq, Repr

/-- One move of one agent (00_scope.md R14) [log entry 6]. -/
inductive Move where
  /-- The host makes one access. -/
  | host (a : HostAccess)
  /-- The host issues a command word by the protocol of 30_encoding.md R88: it polls STATUS, then writes CMD0, then CMD1. -/
  | issue (w : Word64)
  /-- The host polls STATUS until BUSY = 0 and then reads RESULT (30_encoding.md R88). -/
  | collect
  /-- The engine moves: it takes and executes the command of PENDING, or, with none, finishes (10_state.md R36). -/
  | engine
  /-- The Transport Adapter accepts the head of OUTQ; the flag is the outcome of its bus transfer (43_sequencer.md R134). -/
  | adapter (transferOk : Bool)
  /-- Whichever of the engine and the adapter has something to do moves (70_reset_and_hazards.md R186); whether a transfer
  then succeeds is a free value [log entry 21]. -/
  | progress
  /-- The platform writes an SRC byte (20_memory.md R64). -/
  | srcWrite (a : BitVec 16) (v : Byte)
  /-- The block reset (70_reset_and_hazards.md R173, R175). -/
  | blockReset
  deriving DecidableEq, Repr

/-- Why the machine stops. No command stops it, and no host access does: an access that is not admitted stops the host
alone. -/
inductive Fault where
  /-- Raised by a step with the host stuck (20_memory.md R53) and no other agent that has anything to do: nobody has a step
  (60_exceptions.md R172). Safe: nothing is claimed of what follows [log entry 10]. -/
  | hostStuck
  deriving DecidableEq, Repr

/-- Why an instruction has no meaning. Nothing raises it: every command has its meaning. -/
inductive Refusal where
  /-- Raised by an arm of `exec` that has no meaning yet; there is none left. Safe. -/
  | notModelled (mnemonic : String)
  deriving DecidableEq, Repr

/-- The state. The first thirteen fields are the whole architectural state of 10_state.md R20. -/
structure State where
  /-- `FB` (10_state.md R37, 20_memory.md R45). -/
  fb : Mem
  /-- `CURSOR_X` (10_state.md R35). -/
  cursorX : BitVec 16
  /-- `CURSOR_Y` (10_state.md R35). -/
  cursorY : BitVec 16
  /-- `ROTATION` (10_state.md R30). -/
  rotation : Rotation
  /-- `PSTATE` (10_state.md R31). -/
  pstate : PState
  /-- `TX_BOUND` (10_state.md R33). -/
  txBound : Bool
  /-- `ERR` (10_state.md R34). -/
  err : BitVec 4
  /-- `BUSY` (10_state.md R24, R36, R39). -/
  busy : Bool
  /-- `PENDING` (10_state.md R24, R36). -/
  pending : Option Word64
  /-- `CMD0` (10_state.md R23). -/
  cmd0 : Word32
  /-- `CMD1` (10_state.md R24). -/
  cmd1 : Word32
  /-- `RESULT` (10_state.md R26). -/
  result : Word32
  /-- `OUTQ`, head first (10_state.md R38), each message with its phase tag (43_sequencer.md R140). -/
  outq : List Tagged
  /-- `SRC`, the external bitmap source memory (20_memory.md R47). -/
  src : Mem
  /-- The parameters, which no step changes (00_scope.md R7, 10_state.md R20) [log entry 1]. -/
  cfg : Config
  /-- Model's own [log entry 2]: the number of block resets, naming the draw of the unwritten framebuffer bytes. -/
  fbEpoch : Nat
  /-- Model's own [log entry 4]: the number of commands taken, naming the free choices of raced SRC reads. -/
  commandCount : Nat
  /-- Model's own [log entry 4]: bytes of SRC overwritten since a command not yet executed was submitted, newest first. -/
  srcRace : List Host.Cell
  /-- Model's own [log entry 6]: the moves of the agents to come. -/
  schedule : List Move
  /-- Whether the host is stuck at an access that is not admitted (20_memory.md R53, 60_exceptions.md R172)
  [log entry 10]. -/
  hostStuck : Bool
  /-- Model's own [log entry 8]: what the host has read, oldest first (70_reset_and_hazards.md R188). -/
  hostReads : List HostRead
  /-- Model's own [log entry 8]: what the adapter has accepted, oldest first (70_reset_and_hazards.md R188). -/
  accepted : List Accepted
  deriving DecidableEq, Repr

/-- The state after the first reset of an FBP with parameters `cfg` (10_state.md R40, 70_reset_and_hazards.md R173). The
framebuffer lists nothing: every byte is the draw of epoch 0 (R176). -/
def State.resetWith (cfg : Config) : State where
  fb := []
  cursorX := 0#16
  cursorY := 0#16
  rotation := .normal
  pstate := .uninitialized
  txBound := false
  err := 0#4
  busy := false
  pending := none
  cmd0 := 0#32
  cmd1 := 0#32
  result := 0#32
  outq := []
  src := []
  cfg := cfg
  fbEpoch := 0
  commandCount := 0
  srcRace := []
  schedule := []
  hostStuck := false
  hostReads := []
  accepted := []

/-- The machine right after reset, at the default parameters of 00_scope.md R7 [log entries 1 and 5]. -/
def State.reset : State := State.resetWith Config.default

end Sys2Proof.Machine
end

