-- ==== Sys2Proof/Machine/Operands.lean ====
section
/-! DEFINITION. Geometry, operand ranges and bit fields: how the operands of a command name pixels, framebuffer bytes
and source bits (00_scope.md R8, R10, R13; 20_memory.md R45; 40_bitpacker.md R96). -/

namespace Sys2Proof

/-- The number of rows a panel height stands for. -/
def PanelHeight.rows : PanelHeight → Nat
  | .rows32 => 32
  | .rows64 => 64
  | .rows128 => 128

/-- `WIDTH` (00_scope.md R7). -/
def Config.width (c : Config) : Nat := c.widthPred.val + 1

/-- `HEIGHT` (00_scope.md R7). -/
def Config.height (c : Config) : Nat := c.panelHeight.rows

/-- `PAGES = HEIGHT / 8` (00_scope.md R8). -/
def Config.pages (c : Config) : Nat := c.height / 8

/-- `FB_LEN = WIDTH * HEIGHT / 8` (00_scope.md R8). -/
def Config.fbLen (c : Config) : Nat := c.width * c.height / 8

/-- A coordinate is in range when `0 <= x < WIDTH` and `0 <= y < HEIGHT` (00_scope.md R13). -/
abbrev Config.InRange (c : Config) (x y : Int) : Prop := 0 ≤ x ∧ 0 ≤ y ∧ x < c.width ∧ y < c.height

/-- The framebuffer byte that holds pixel `(x, y)` (20_memory.md R45). -/
def Config.index (c : Config) (x y : Nat) : Nat := x + (y / 8) * c.width

/-- The bit of its byte that holds a pixel of row `y` (20_memory.md R45, R49). -/
def bitOf (y : Nat) : Nat := y % 8

/-- A byte with bit `n` replaced by a colour (20_memory.md R50). -/
def setBit (b : Byte) (n : Nat) : Colour → Byte
  | .black => b &&& ~~~(1#8 <<< n)
  | .white => b ||| (1#8 <<< n)

/-- Whether a bit is the colour White (00_scope.md R12). -/
def Colour.isWhite : Colour → Bool
  | .black => false
  | .white => true

/-- The byte FILL writes: `0xFF` for White, `0x00` for Black (40_bitpacker.md R92). -/
def Colour.fillByte : Colour → Byte
  | .black => 0x00#8
  | .white => 0xFF#8

/-- `a, a+1, ..., b`; nothing when `a > b` (00_scope.md R11). -/
def natRange (a b : Nat) : List Nat := (List.range (b + 1 - a)).map (a + ·)

/-- `a, a+1, ..., b` on integers; nothing when `a > b` (00_scope.md R11). -/
def intRange (a b : Int) : List Int := (List.range (b + 1 - a).toNat).map (fun n : Nat => a + (n : Int))

/-- Bytes of one bitmap row: `(w + 7) / 8` (40_bitpacker.md R96). -/
def byteWidth (w : Nat) : Nat := (w + 7) / 8

/-- The address of source byte `k` of row `j`, wrapped modulo 2^16 (40_bitpacker.md R97, 20_memory.md R47). -/
def srcAddr (src w j k : Nat) : Nat := (src + j * byteWidth w + k) % 65536

/-- Column `i` of a bitmap row is bit `7 - (i % 8)` of its byte (40_bitpacker.md R96). -/
def srcBit (v : Byte) (i : Nat) : Bool := v.getLsbD (7 - i % 8)

end Sys2Proof
end

