-- ==== Sys2Proof/Machine/Flags.lean ====
section
/-! DEFINITION. The register words the host reads and the codes in them: STATUS, CONFIG, CONFIG2 (10_state.md R25, R27,
R28), the error codes (60_exceptions.md R154), and the formats of RESULT. The FBP has no other flags (10_state.md R39). -/

namespace Sys2Proof.Machine

/-- The error codes (60_exceptions.md R154). -/
def CmdError.code : CmdError → BitVec 4
  | .illegalOp => 1#4
  | .rsvNonzero => 2#4
  | .notReady => 3#4
  | .overrun => 4#4

/-- The two bits of `PSTATE` (10_state.md R20). -/
def PState.bits : PState → BitVec 2
  | .uninitialized => 0#2
  | .resetting => 1#2
  | .configuring => 2#2
  | .ready => 3#2

/-- The bit of `ROTATION` (10_state.md R20). -/
def Rotation.bit : Rotation → BitVec 1
  | .normal => 0#1
  | .rotated180 => 1#1

/-- The kind codes (43_sequencer.md R133). -/
def MsgKind.code : MsgKind → BitVec 2
  | .reset => 0#2
  | .writeCommand => 1#2
  | .writeData => 2#2
  | .delay => 3#2

/-- `initialized = (PSTATE = Ready)` (10_state.md R32). -/
def State.initialized (s : State) : Bool := s.pstate = .ready

/-- STATUS (10_state.md R25): ERR 11:8, TX_BOUND 4, ROTATED 3, PSTATE 2:1, BUSY 0, the rest 0. -/
def State.status (s : State) : Word32 :=
  0#20 ++ s.err ++ 0#3 ++ BitVec.ofBool s.txBound ++ s.rotation.bit ++ s.pstate.bits ++ BitVec.ofBool s.busy

/-- The bit of TRANSPORT in CONFIG (10_state.md R27). -/
def transportBit : Transport → BitVec 1
  | .spi => 0#1
  | .i2c => 1#1

/-- The bit of FLUSH_BEFORE_READY in CONFIG (10_state.md R27). -/
def flushPolicyBit : FlushPolicy → BitVec 1
  | .reject => 0#1
  | .emit => 1#1

/-- CONFIG (10_state.md R27): VERSION 31:24, FLUSH_BEFORE_READY 17, TRANSPORT 16, HEIGHT 15:8, WIDTH 7:0. -/
def configWord (c : Config) : Word32 :=
  0x01#8 ++ 0#6 ++ flushPolicyBit c.flushBeforeReady ++ transportBit c.transport ++ BitVec.ofNat 8 c.height ++
    BitVec.ofNat 8 c.width

/-- CONFIG2 (10_state.md R28): COL_START 22:16, Y_OFFSET 15:8, X_OFFSET 7:0. -/
def config2Word (c : Config) : Word32 := 0#9 ++ c.colStart ++ c.yOffset ++ c.xOffset

/-- RESULT of READ_PIXEL in range: bit 1 valid, bit 0 the pixel (40_bitpacker.md R94). -/
def pixelResult (white : Bool) : Word32 := (1#1 ++ BitVec.ofBool white).setWidth 32

/-- RESULT of READ_BYTE in range: bit 8 valid, bits 7:0 the byte (40_bitpacker.md R95). -/
def byteResult (b : Byte) : Word32 := (1#1 ++ b).setWidth 32

/-- RESULT of an out-of-range READ_PIXEL or READ_BYTE: valid = 0 (40_bitpacker.md R94, R95). -/
def invalidResult : Word32 := 0x00000000#32

/-- RESULT of GET_CURSOR (42_transforms.md R126). -/
def cursorResult (x y : BitVec 16) : Word32 := y ++ x

/-- RESULT of GET_ROTATED (42_transforms.md R131). -/
def rotationResult (r : Rotation) : Word32 := r.bit.setWidth 32

end Sys2Proof.Machine
end

