-- ==== Sys2Proof/Machine/Ops.lean ====
section
/-! DEFINITION. The named operations over memory and registers that every meaning uses (00_scope.md R11: MemRead,
MemWrite, Plot, Emit, raise CmdError), each once. -/

namespace Sys2Proof.Machine

/-! ## Memory -/

/-- The canonical form: addresses strictly rising [log entry 11]. -/
abbrev Mem.Wf (m : Mem) : Prop := m.Pairwise (fun c d => c.1 < d.1)

/-- Every listed address is below `n`. -/
abbrev Mem.Below (n : Nat) (m : Mem) : Prop := ∀ c ∈ m, c.1 < n

/-- The listed byte at `a`, if any. -/
def Mem.find (m : Mem) (a : Nat) : Option Byte :=
  match m with
  | [] => none
  | c :: m' => if c.1 = a then some c.2 else Mem.find m' a

/-- The byte at `a`: the listed one, else the memory's draw. -/
def Mem.read (draw : Nat → Byte) (m : Mem) (a : Nat) : Byte := (m.find a).getD (draw a)

/-- Write one byte, keeping the canonical form. -/
def Mem.write (m : Mem) (a : Nat) (v : Byte) : Mem :=
  match m with
  | [] => [(a, v)]
  | c :: m' =>
    if a < c.1 then (a, v) :: c :: m'
    else if c.1 = a then (a, v) :: m'
    else c :: Mem.write m' a v

/-! ## The framebuffer -/

/-- `MemRead(FB, i, 1)` (20_memory.md R45); a byte no command has written since reset is the reset's draw
(10_state.md R40) [log entry 2]. -/
def State.fbRead (s : State) (i : Nat) : Byte := Mem.read (Config.fbDraw s.fbEpoch) s.fb i

/-- `pixel(x, y)` (20_memory.md R45): whether the pixel is White. -/
def State.pixel (s : State) (x y : Nat) : Bool := (s.fbRead (s.cfg.index x y)).getLsbD (bitOf y)

/-- `Plot(x, y, c)` on the framebuffer's memory (40_bitpacker.md R89): clipped, else one bit of one byte is written. -/
def plotMem (cfg : Config) (draw : Nat → Byte) (c : Colour) (m : Mem) (p : Int × Int) : Mem :=
  if cfg.InRange p.1 p.2 then
    let i := cfg.index p.1.toNat p.2.toNat
    m.write i (setBit (m.read draw i) (bitOf p.2.toNat) c)
  else m

/-- `Plot` at each coordinate in turn (40_bitpacker.md R90): nothing but the framebuffer changes. -/
def State.paint (s : State) (pts : List (Int × Int)) (c : Colour) : State :=
  { s with fb := pts.foldl (plotMem s.cfg (Config.fbDraw s.fbEpoch) c) s.fb }

/-- Write every byte of the framebuffer with `v`, index ascending (40_bitpacker.md R92). -/
def State.fillFb (s : State) (v : Byte) : State :=
  { s with fb := (List.range s.cfg.fbLen).foldl (fun m i => m.write i v) s.fb }

/-! ## The bitmap source -/

/-- The bytes that raced SRC address `a` has held since the command not yet executed was submitted, and no longer
holds. -/
def State.srcOlds (s : State) (a : Nat) : List Byte := (s.srcRace.filter (fun c => c.1 = a)).map (·.2)

/-- `MemRead(SRC, a, 1)` (20_memory.md R47); `a` wraps modulo 2^16. At a raced address it is one of the bytes held
since submission, which one is free (R64) [log entry 4]. -/
def State.srcRead (s : State) (a : Nat) : Byte :=
  let a := a % 65536
  let now := Mem.read Config.srcContents s.src a
  match s.srcOlds a with
  | [] => now
  | old :: olds => (now :: old :: olds).getD (Config.srcPick s.commandCount a % (olds.length + 2)) now

/-- The platform writes an SRC byte. While a submitted command has not executed, the byte it overwrites can still be
read by it (20_memory.md R64, 70_reset_and_hazards.md R182). -/
def State.srcWrite (s : State) (a : BitVec 16) (v : Byte) : State :=
  { s with
    src := s.src.write a.toNat v
    srcRace := if s.pending.isSome then (a.toNat, Mem.read Config.srcContents s.src a.toNat) :: s.srcRace
      else s.srcRace }

/-! ## Registers -/

/-- `RESULT <- v` (10_state.md R26). -/
def State.setResult (s : State) (v : Word32) : State := { s with result := v }

/-- `CURSOR_X <- trunc_16(x)`, `CURSOR_Y <- trunc_16(y)` (42_transforms.md R123). -/
def State.setCursor (s : State) (x y : Int) : State :=
  { s with cursorX := BitVec.ofInt 16 x, cursorY := BitVec.ofInt 16 y }

/-- `ROTATION <- r` (42_transforms.md R129). -/
def State.setRotation (s : State) (r : Rotation) : State := { s with rotation := r }

/-! ## Errors: taking the FBP's only exception -/

/-- The sticky error code: the first error since reset or CLEAR_ERR is kept (10_state.md R34, 60_exceptions.md R164). -/
def recordErr (err : BitVec 4) (e : CmdError) : BitVec 4 := if err = 0#4 then e.code else err

/-- `raise CmdError(code)` (60_exceptions.md R155): ERR if it is 0, PENDING empty, and nothing else. -/
def State.raiseCmdError (s : State) (e : CmdError) : State :=
  { s with err := recordErr s.err e, pending := none }

/-- `ERR <- 0`, the only way back (44_control.md R151; there is no return from a trap, 60_exceptions.md R164). -/
def State.clearErr (s : State) : State := { s with err := 0#4 }

/-! ## The output port and the protocol state -/

/-- `Emit(kind, payload)` (43_sequencer.md R133): appended if a transport is bound, else dropped silently. -/
def State.emit (s : State) (ph : Phase) (m : Message) : State :=
  if s.txBound then { s with outq := s.outq ++ [⟨ph, m⟩] } else s

/-- `Emit` of each message in turn. -/
def State.emitAll (s : State) (ph : Phase) (ms : List Message) : State := ms.foldl (fun t m => t.emit ph m) s

/-- Whether a message with the tag is in the queue. -/
def hasPhase (q : List Tagged) (ph : Phase) : Bool := q.any (fun m => m.phase = ph)

/-- First test of `Advance` (43_sequencer.md R140). -/
def leaveResetting (p : PState) (q : List Tagged) : PState :=
  if p = .resetting ∧ hasPhase q .reset = false then .configuring else p

/-- Second test of `Advance` (43_sequencer.md R140). -/
def leaveConfiguring (p : PState) (q : List Tagged) : PState :=
  if p = .configuring ∧ hasPhase q .config = false then .ready else p

/-- `Advance()` (43_sequencer.md R140). -/
def State.advance (s : State) : State :=
  { s with pstate := leaveConfiguring (leaveResetting s.pstate s.outq) s.outq }

end Sys2Proof.Machine
end

