-- ==== Sys2Proof/Machine/Walks.lean ====
section
/-! DEFINITION. The coordinate sequences of the drawing commands, in exact integer arithmetic (41_rasterizers.md R100): the
line walk (R105), the circle walk (R111), the boxes, spans and bitmap bits built from them. Each loop of the spec's
pseudocode has a step function and a fuel larger than its number of iterations (R107, R112) [log entry 13]. -/

namespace Sys2Proof

/-! ## Line -/

/-- The variables of one line walk that do not change (41_rasterizers.md R105). -/
structure LineParams where
  x2 : Int
  y2 : Int
  dx : Int
  dy : Int
  sx : Int
  sy : Int
  deriving DecidableEq, Repr

/-- The variables of one line walk that do. -/
structure LineState where
  x : Int
  y : Int
  err : Int
  deriving DecidableEq, Repr

/-- `abs(b - a)`. -/
def absDiff (a b : Nat) : Int := ((b : Int) - (a : Int)).natAbs

/-- `dx`, `dy`, `sx`, `sy` of the walk from `(x1, y1)` to `(x2, y2)` (R105). -/
def lineParams (x1 y1 x2 y2 : Nat) : LineParams where
  x2 := x2
  y2 := y2
  dx := absDiff x1 x2
  dy := absDiff y1 y2
  sx := if x1 < x2 then 1 else -1
  sy := if y1 < y2 then 1 else -1

/-- The start of the loop: `err <- dx - dy` (R105). -/
def lineStart (x1 y1 x2 y2 : Nat) : LineState where
  x := x1
  y := y1
  err := absDiff x1 x2 - absDiff y1 y2

/-- One iteration's update (R105): test 1 steps in x when `e2 > -dy`, test 2 steps in y when `e2 < dx`, both on the same
`e2 = 2 * err`. -/
def lineStep (p : LineParams) (s : LineState) : LineState :=
  let e2 := 2 * s.err
  let stepX : Bool := e2 > -p.dy
  let stepY : Bool := e2 < p.dx
  { x := if stepX then s.x + p.sx else s.x
    y := if stepY then s.y + p.sy else s.y
    err := s.err + (if stepX then -p.dy else 0) + (if stepY then p.dx else 0) }

/-- The loop (R105): while the walk is not at the terminal pixel, yield and step. -/
def lineLoop (p : LineParams) : Nat → LineState → List (Int × Int)
  | 0, _ => []
  | fuel + 1, s =>
    if s.x = p.x2 ∧ s.y = p.y2 then [] else (s.x, s.y) :: lineLoop p fuel (lineStep p s)

/-- `LineWalk(x1, y1, x2, y2)` (R105): the terminal pixel first. -/
def lineWalk (x1 y1 x2 y2 : Nat) : List (Int × Int) :=
  ((x2 : Int), (y2 : Int)) ::
    lineLoop (lineParams x1 y1 x2 y2) ((absDiff x1 x2).toNat + (absDiff y1 y2).toNat + 1) (lineStart x1 y1 x2 y2)

/-! ## Rectangles -/

/-- The four edges of DRAW_RECT, in order (41_rasterizers.md R108). -/
def rectOutline (x1 y1 x2 y2 : Nat) : List (Int × Int) :=
  lineWalk x1 y1 x2 y1 ++ lineWalk x2 y1 x2 y2 ++ lineWalk x2 y2 x1 y2 ++ lineWalk x1 y2 x1 y1

/-- The box of FILL_RECT, row by row, bounds inclusive (41_rasterizers.md R109). -/
def rectBox (x1 y1 x2 y2 : Nat) : List (Int × Int) :=
  (natRange (min y1 y2) (max y1 y2)).flatMap fun py : Nat =>
    (natRange (min x1 x2) (max x1 x2)).map fun px : Nat => ((px : Int), (py : Int))

/-! ## Circle -/

/-- The variables of the circle walk (41_rasterizers.md R111). -/
structure CircleState where
  x : Int
  y : Int
  err : Int
  deriving DecidableEq, Repr

/-- `x <- -r`, `y <- 0`, `err <- 2 - 2 * r` (R111). -/
def circleStart (r : Nat) : CircleState where
  x := -(r : Int)
  y := 0
  err := 2 - 2 * (r : Int)

/-- One iteration's update (R111). The first test may step in y and then set `e2` to 0; the second uses that `e2`. -/
def circleStep (s : CircleState) : CircleState :=
  let e2 := s.err
  let stepY : Bool := e2 ≤ s.y
  let y := if stepY then s.y + 1 else s.y
  let err := if stepY then s.err + (2 * y + 1) else s.err
  let e2 := if stepY ∧ -s.x = y ∧ e2 ≤ s.x then 0 else e2
  let stepX : Bool := e2 > s.x
  let x := if stepX then s.x + 1 else s.x
  { x := x
    y := y
    err := if stepX then err + (2 * x + 1) else err }

/-- The loop (R111): yield, step, until `x > 0`. -/
def circleLoop : Nat → CircleState → List CircleState
  | 0, _ => []
  | fuel + 1, s =>
    let t := circleStep s
    s :: (if t.x > 0 then [] else circleLoop fuel t)

/-- The states of `CircleWalk(r)` at each yield (R111). -/
def circleStates (r : Nat) : List CircleState := circleLoop (2 * r + 2) (circleStart r)

/-- `CircleWalk(r)` (R111): the yielded offsets. -/
def circleWalk (r : Nat) : List (Int × Int) := (circleStates r).map fun s => (s.x, s.y)

/-- The four points of one step of DRAW_CIRCLE, in order (41_rasterizers.md R113). -/
def circlePoints (cx cy : Int) (p : Int × Int) : List (Int × Int) :=
  [(cx - p.1, cy + p.2), (cx + p.1, cy + p.2), (cx + p.1, cy - p.2), (cx - p.1, cy - p.2)]

/-- Every coordinate DRAW_CIRCLE plots, in order (R113). -/
def circleOutline (cx cy r : Nat) : List (Int × Int) := (circleWalk r).flatMap (circlePoints cx cy)

/-- The two spans of one step of FILL_CIRCLE, in order (41_rasterizers.md R115). -/
def circleSpans (cx cy : Int) (p : Int × Int) : List (Int × Int) :=
  [cy + p.2, cy - p.2].flatMap fun py => (intRange (cx + p.1) (cx - p.1)).map fun px => (px, py)

/-- Every coordinate FILL_CIRCLE plots, in order (R115). -/
def circleDisc (cx cy r : Nat) : List (Int × Int) := (circleWalk r).flatMap (circleSpans cx cy)

/-! ## Bitmap -/

/-- The source bytes of a bitmap as (row, byte of the row), in the order of the two outer loops (40_bitpacker.md R97). -/
def bitmapBytes (w h : Nat) : List (Nat × Nat) :=
  (List.range h).flatMap fun j => (List.range (byteWidth w)).map fun k => (j, k)

/-- The addresses DRAW_BITMAP reads, in order (40_bitpacker.md R98). -/
def bitmapReads (w h src : Nat) : List Nat := (bitmapBytes w h).map fun p => srcAddr src w p.1 p.2

/-- The coordinates that source byte `k` of row `j`, of value `v`, plots (40_bitpacker.md R97). -/
def bytePoints (x y w j k : Nat) (v : Byte) : List (Int × Int) :=
  (natRange (8 * k) (min (8 * k + 7) (w - 1))).filterMap fun i =>
    if srcBit v i then some (((x + i : Nat) : Int), ((y + j : Nat) : Int)) else none

/-- Every coordinate DRAW_BITMAP plots, in order, with `vs` the bytes read (40_bitpacker.md R97). -/
def bitmapPoints (x y w h : Nat) (vs : List Byte) : List (Int × Int) :=
  ((bitmapBytes w h).zip vs).flatMap fun p => bytePoints x y w p.1.1 p.1.2 p.2

end Sys2Proof
end

