-- ==== Sys2Proof/Machine/BitPacker.lean ====
section
/-! DEFINITION. The bit-packer commands (40_bitpacker.md). -/

namespace Sys2Proof.Machine

/-- SET_PIXEL (40_bitpacker.md R91): `Plot(x, y, c)`. -/
def execSetPixel (x y : Nat) (c : Colour) (s : State) : Host.Outcome State Fault Refusal :=
  .next (s.paint [((x : Int), (y : Int))] c)

/-- FILL (40_bitpacker.md R92): every byte `0xFF` or `0x00`. -/
def execFill (c : Colour) (s : State) : Host.Outcome State Fault Refusal := .next (s.fillFb c.fillByte)

/-- READ_PIXEL (40_bitpacker.md R94). -/
def execReadPixel (x y : Nat) (s : State) : Host.Outcome State Fault Refusal :=
  .next (s.setResult (if x < s.cfg.width ∧ y < s.cfg.height then pixelResult (s.pixel x y) else invalidResult))

/-- READ_BYTE (40_bitpacker.md R95). -/
def execReadByte (index : Nat) (s : State) : Host.Outcome State Fault Refusal :=
  .next (s.setResult (if index < s.cfg.fbLen then byteResult (s.fbRead index) else invalidResult))

/-- DRAW_BITMAP (40_bitpacker.md R97): nothing, and no SRC read, when the origin is out of range; else the source
bytes are read, each once, in order (R98), and their set bits are plotted. -/
def execDrawBitmap (x y w h src : Nat) (c : Colour) (s : State) : Host.Outcome State Fault Refusal :=
  .next (if x ≥ s.cfg.width ∨ y ≥ s.cfg.height then s 
    else s.paint (bitmapPoints x y w h ((bitmapReads w h src).map s.srcRead)) c)

end Sys2Proof.Machine
end

