-- ==== Sys2Proof/Machine/Control.lean ====
section
/-! DEFINITION. The control commands (44_control.md). -/

namespace Sys2Proof.Machine

/-- NOP (44_control.md R150): nothing. -/
def execNop (s : State) : Host.Outcome State Fault Refusal := .next s

/-- CLEAR_ERR (44_control.md R151): `ERR <- 0`. -/
def execClearErr (s : State) : Host.Outcome State Fault Refusal := .next s.clearErr

end Sys2Proof.Machine
end

