-- ==== Sys2Proof/Machine/Rasterizers.lean ====
section
/-! DEFINITION. The rasterizer commands (41_rasterizers.md). -/

namespace Sys2Proof.Machine

/-- DRAW_LINE (41_rasterizers.md R106). -/
def execDrawLine (x1 y1 x2 y2 : Nat) (c : Colour) (s : State) : Host.Outcome State Fault Refusal :=
  .next (s.paint (lineWalk x1 y1 x2 y2) c)

/-- DRAW_RECT (41_rasterizers.md R108): four lines. -/
def execDrawRect (x1 y1 x2 y2 : Nat) (c : Colour) (s : State) : Host.Outcome State Fault Refusal :=
  .next (s.paint (rectOutline x1 y1 x2 y2) c)

/-- FILL_RECT (41_rasterizers.md R109): the inclusive box. -/
def execFillRect (x1 y1 x2 y2 : Nat) (c : Colour) (s : State) : Host.Outcome State Fault Refusal :=
  .next (s.paint (rectBox x1 y1 x2 y2) c)

/-- DRAW_CIRCLE (41_rasterizers.md R113): nothing when the centre is out of range, else four points a step. -/
def execDrawCircle (cx cy r : Nat) (c : Colour) (s : State) : Host.Outcome State Fault Refusal :=
  .next (if cx ≥ s.cfg.width ∨ cy ≥ s.cfg.height then s else s.paint (circleOutline cx cy r) c)

/-- FILL_CIRCLE (41_rasterizers.md R115): nothing when the centre is out of range, else two spans a step. -/
def execFillCircle (cx cy r : Nat) (c : Colour) (s : State) : Host.Outcome State Fault Refusal :=
  .next (if cx ≥ s.cfg.width ∨ cy ≥ s.cfg.height then s else s.paint (circleDisc cx cy r) c)

end Sys2Proof.Machine
end

