-- ==== Sys2Proof/Machine/Sequencer.lean ====
section
/-! DEFINITION. The page-write sequence generator (43_sequencer.md): INIT, FLUSH and the message sequences they emit. -/

namespace Sys2Proof.Machine

/-- `RESET_DELAY_MS` (00_scope.md R7). -/
def resetDelayMs : Byte := 10#8

/-- `RESET_SEQ(TRANSPORT)` (43_sequencer.md R136). -/
def resetSeq : Transport → List Message
  | .spi => [⟨.reset, [0x00#8]⟩, ⟨.delay, [resetDelayMs]⟩, ⟨.reset, [0x01#8]⟩, ⟨.delay, [resetDelayMs]⟩]
  | .i2c => []

/-- The configuration sequence: one command byte a message, in order (43_sequencer.md R137). -/
def configSeq (bytes : List Byte) : List Message := bytes.map fun b => ⟨.writeCommand, [b]⟩

/-- `PAGE_CMD(p) = 0xB0 + p` (43_sequencer.md R138). -/
def pageCmd (p : Nat) : Byte := BitVec.ofNat 8 (0xB0 + p)

/-- `COL_LO = 0x00 + (COL_START % 16)` (43_sequencer.md R138). -/
def colLo (cfg : Config) : Byte := BitVec.ofNat 8 (0x00 + cfg.colStart.toNat % 16)

/-- `COL_HI = 0x10 + (COL_START / 16)` (43_sequencer.md R138). -/
def colHi (cfg : Config) : Byte := BitVec.ofNat 8 (0x10 + cfg.colStart.toNat / 16)

/-- The bytes of page `p`, column 0 first, each unchanged (20_memory.md R51). -/
def State.pageBytes (s : State) (p : Nat) : List Byte :=
  (List.range s.cfg.width).map fun k => s.fbRead (p * s.cfg.width + k)

/-- The four messages of page `p` (43_sequencer.md R142). -/
def State.pageMessages (s : State) (p : Nat) : List Message :=
  [⟨.writeCommand, [pageCmd p]⟩, ⟨.writeCommand, [colLo s.cfg]⟩, ⟨.writeCommand, [colHi s.cfg]⟩,
   ⟨.writeData, s.pageBytes p⟩]

/-- Every message of one FLUSH, in order (43_sequencer.md R142). -/
def State.flushMessages (s : State) : List Message := (List.range s.cfg.pages).flatMap s.pageMessages

/-- INIT (43_sequencer.md R139): bind, enter Resetting, emit both sequences, advance. -/
def execInit (bind : Bool) (s : State) : Host.Outcome State Fault Refusal :=
  .next
    ((({ s with txBound := bind, pstate := .resetting }).emitAll .reset (resetSeq s.cfg.transport)).emitAll .config
      (configSeq s.cfg.initSeq)).advance

/-- FLUSH (43_sequencer.md R142): NOT_READY, or four messages a page. -/
def execFlush (s : State) : Host.Outcome State Fault Refusal :=
  .next
    (if s.pstate ≠ .ready ∧ s.cfg.flushBeforeReady = .reject then s.raiseCmdError .notReady
     else s.emitAll .page s.flushMessages)

end Sys2Proof.Machine
end

