-- ==== Sys2Proof/Machine/Transforms.lean ====
section
/-! DEFINITION. The coordinate-transform commands (42_transforms.md). -/

namespace Sys2Proof.Machine

/-- `CURSOR_X` of SET_CURSOR before narrowing (42_transforms.md R123): `WIDTH - x` when rotated (R124 keeps that formula),
else `x - X_OFFSET`. -/
def cursorXOf (cfg : Config) : Rotation → Nat → Int
  | .rotated180, x => (cfg.width : Int) - x
  | .normal, x => (x : Int) - (cfg.xOffset.toNat : Int)

/-- `CURSOR_Y` of SET_CURSOR before narrowing (42_transforms.md R123): `HEIGHT - 1 - y` when rotated, else
`y - Y_OFFSET`. -/
def cursorYOf (cfg : Config) : Rotation → Nat → Int
  | .rotated180, y => (cfg.height : Int) - 1 - y
  | .normal, y => (y : Int) - (cfg.yOffset.toNat : Int)

/-- SET_CURSOR (42_transforms.md R123). -/
def execSetCursor (x y : Nat) (s : State) : Host.Outcome State Fault Refusal :=
  .next (s.setCursor (cursorXOf s.cfg s.rotation x) (cursorYOf s.cfg s.rotation y))

/-- GET_CURSOR (42_transforms.md R126). -/
def execGetCursor (s : State) : Host.Outcome State Fault Refusal :=
  .next (s.setResult (cursorResult s.cursorX s.cursorY))

/-- SET_ROTATED (42_transforms.md R129). -/
def execSetRotated (rot : Bool) (s : State) : Host.Outcome State Fault Refusal :=
  .next (s.setRotation (if rot then .rotated180 else .normal))

/-- GET_ROTATED (42_transforms.md R131). -/
def execGetRotated (s : State) : Host.Outcome State Fault Refusal := .next (s.setResult (rotationResult s.rotation))

end Sys2Proof.Machine
end

