-- ==== Sys2Proof/Machine/Dispatch.lean ====
section
/-! DEFINITION. One arm per command: its meaning (30_encoding.md R72). -/

namespace Sys2Proof.Machine

def exec (i : Instr) (s : State) : Host.Outcome State Fault Refusal :=
  match i with
  | .nop => Sys2Proof.Machine.execNop s
  | .clearErr => Sys2Proof.Machine.execClearErr s
  | .setPixel x y c => Sys2Proof.Machine.execSetPixel x y c s
  | .fill c => Sys2Proof.Machine.execFill c s
  | .readPixel x y => Sys2Proof.Machine.execReadPixel x y s
  | .readByte index => Sys2Proof.Machine.execReadByte index s
  | .drawBitmap x y w h src c => Sys2Proof.Machine.execDrawBitmap x y w h src c s
  | .drawLine x1 y1 x2 y2 c => Sys2Proof.Machine.execDrawLine x1 y1 x2 y2 c s
  | .drawRect x1 y1 x2 y2 c => Sys2Proof.Machine.execDrawRect x1 y1 x2 y2 c s
  | .fillRect x1 y1 x2 y2 c => Sys2Proof.Machine.execFillRect x1 y1 x2 y2 c s
  | .drawCircle cx cy r c => Sys2Proof.Machine.execDrawCircle cx cy r c s
  | .fillCircle cx cy r c => Sys2Proof.Machine.execFillCircle cx cy r c s
  | .setCursor x y => Sys2Proof.Machine.execSetCursor x y s
  | .getCursor => Sys2Proof.Machine.execGetCursor s
  | .setRotated rot => Sys2Proof.Machine.execSetRotated rot s
  | .getRotated => Sys2Proof.Machine.execGetRotated s
  | .init bind => Sys2Proof.Machine.execInit bind s
  | .flush => Sys2Proof.Machine.execFlush s

end Sys2Proof.Machine
end

