-- ==== Sys2Proof/Machine/Engine.lean ====
section
/-! DEFINITION. The moves of the FBP engine and of the Transport Adapter (10_state.md R36, 30_encoding.md R73,
43_sequencer.md R134, R140). -/

namespace Sys2Proof

/-- The command error a rejected word raises (30_encoding.md R73). -/
def DecodeError.cmdError : DecodeError → Machine.CmdError
  | .illegalOp => .illegalOp
  | .rsvNonzero => .rsvNonzero

end Sys2Proof

namespace Sys2Proof.Machine

/-- Decode and dispatch (30_encoding.md R73): ILLEGAL_OP, then RSV_NONZERO, then the command (60_exceptions.md R162). -/
def dispatch (w : Word64) (s : State) : Host.Outcome State Fault Refusal :=
  match decode w with
  | .ok i => exec i s
  | .error e => .next (s.raiseCmdError e.cmdError)

/-- The engine has executed the command it took: `PENDING <- empty` (10_state.md R36). BUSY stays 1; the bytes that
the command could have raced for are gone, and the next command's free choices are fresh [log entries 4 and 7]. -/
def State.retire (s : State) : State :=
  { s with pending := none, srcRace := [], commandCount := s.commandCount + 1 }

/-- The engine has no command: `BUSY <- 0` once OUTQ is empty (10_state.md R36) [log entry 7]. -/
def State.finish (s : State) : State := { s with busy := if s.outq.isEmpty then false else s.busy }

/-- The engine takes the command of PENDING and executes it as one atomic transition (10_state.md R36). -/
def takeCommand (w : Word64) (s : State) : Host.Outcome State Fault Refusal :=
  match dispatch w s with
  | .next t => .next t.retire
  | .fault r => .fault r
  | .refused r => .refused r

/-- The engine's move (10_state.md R36). -/
def engineMove (s : State) : Host.Outcome State Fault Refusal :=
  match s.pending with
  | some w => takeCommand w s
  | none => .next s.finish

/-- BUSY after an acceptance that leaves `q` in OUTQ: it falls with the last message of the executed command (10_state.md
R25, R36; 43_sequencer.md R139: "After the adapter has accepted all `4 + n` messages, `PSTATE = Ready` and `BUSY = 0`"). -/
def busyAfterAccept (busy : Bool) (pending : Option Word64) (q : List Tagged) : Bool :=
  if q.isEmpty && pending.isNone then false else busy

/-- The adapter accepts the head of OUTQ, then `Advance()` (43_sequencer.md R134, R140). With OUTQ empty it has nothing
to accept. The transfer's outcome changes no FBP state (R146). -/
def State.accept (s : State) (transferOk : Bool) : State :=
  match s.outq with
  | [] => s
  | m :: q =>
    State.advance
      { s with
        outq := q
        accepted := s.accepted ++ [⟨m.msg, transferOk⟩]
        busy := busyAfterAccept s.busy s.pending q }

/-- Whichever of the engine and the adapter has something to do moves: fairness (70_reset_and_hazards.md R186). The outcome
of the transfer of a message accepted so is a free value (43_sequencer.md R146) [log entry 21]. -/
def progressMove (s : State) : Host.Outcome State Fault Refusal :=
  if s.pending.isSome then engineMove s
  else if s.outq.isEmpty then .next s.finish
  else .next (s.accept (Config.transferOutcome s.accepted.length))

end Sys2Proof.Machine
end

