-- ==== Sys2Proof/Machine/HostPort.lean ====
section
/-! DEFINITION. The host's moves (10_state.md R22 to R29, 20_memory.md R48, R53, 30_encoding.md R88), the platform's, and
the block reset (70_reset_and_hazards.md R173, R175). -/

namespace Sys2Proof.Machine

/-- A read of the register at an admitted offset (10_state.md R22): no side effect (20_memory.md R56). -/
def State.regRead (s : State) : Nat → Word32
  | 0x00 => s.cmd0
  | 0x04 => s.cmd1
  | 0x08 => s.status
  | 0x0C => s.result
  | 0x10 => configWord s.cfg
  | 0x14 => config2Word s.cfg
  | _ => 0#32

/-- A write of `v` to CMD1 (10_state.md R24): store, then submit `{v, CMD0}`, or drop it with OVERRUN while BUSY = 1. -/
def State.submit (s : State) (v : Word32) : State :=
  if s.busy then { s with cmd1 := v, err := recordErr s.err .overrun }
  else { s with cmd1 := v, pending := some (v ++ s.cmd0), busy := true }

/-- A write to the register at an admitted offset (10_state.md R22): CMD0 stores, CMD1 submits, a read-only or reserved
register ignores it (R29). -/
def State.regWrite (s : State) (offset : Nat) (v : Word32) : State :=
  match offset with
  | 0x00 => { s with cmd0 := v }
  | 0x04 => s.submit v
  | _ => s

/-- The offset of a host address in the window of 32 bytes at FBP_BASE (20_memory.md R48). -/
def windowOffset (cfg : Config) (addr : Nat) : Option Nat :=
  if cfg.fbpBase ≤ addr ∧ addr < cfg.fbpBase + 32 then some (addr - cfg.fbpBase) else none

/-- An access is admitted as a naturally aligned 32-bit access (20_memory.md R53). -/
def admitted (offset bits : Nat) : Bool := bits = 32 ∧ offset % 4 = 0

/-- The host has read `v` at `offset`. -/
def State.logRead (s : State) (offset : Nat) (v : Word32) : State :=
  { s with hostReads := s.hostReads ++ [⟨offset, v⟩] }

/-- The host is stuck at the access it makes (20_memory.md R53): it moves no more, the other agents do. -/
def State.stopHost (s : State) : State := { s with hostStuck := true }

/-- An access at `addr` of `bits` bits: `act` on the offset if it is admitted, else the host is stuck (20_memory.md R53).
An address outside the window has none of the offsets R53 admits [log entry 10]. -/
def onWindow (s : State) (addr bits : Nat) (act : Nat → State) : State :=
  match windowOffset s.cfg addr with
  | none => s.stopHost
  | some off => if admitted off bits then act off else s.stopHost

/-- One access of the host. -/
def hostMove (a : HostAccess) (s : State) : State :=
  match a with
  | .read addr bits => onWindow s addr bits fun off => s.logRead off (s.regRead off)
  | .write addr bits v => onWindow s addr bits fun off => s.regWrite off v

/-- One poll of STATUS (30_encoding.md R88): while BUSY = 1 the others move and the host polls again; then it goes on
with `next`. -/
def pollMove (again : Move) (next : List Move) (s : State) : State :=
  let t := s.logRead 0x08 s.status
  if s.busy then { t with schedule := .progress :: again :: s.schedule } else { t with schedule := next ++ s.schedule }

/-- Steps 2 and 3 of the protocol: CMD0, then CMD1 (30_encoding.md R88). -/
def submitMoves (cfg : Config) (w : Word64) : List Move :=
  [.host (.write (cfg.fbpBase + 0x00) 32 (w.extractLsb' 0 32)), .host (.write (cfg.fbpBase + 0x04) 32 (w.extractLsb' 32 32))]

/-- The read of RESULT after the second poll (30_encoding.md R88). -/
def resultMoves (cfg : Config) : List Move := [.host (.read (cfg.fbpBase + 0x0C) 32)]

/-- The host issues `w` (30_encoding.md R88). -/
def issueMove (w : Word64) (s : State) : State := pollMove (.issue w) (submitMoves s.cfg w) s

/-- The host collects RESULT (30_encoding.md R88). -/
def collectMove (s : State) : State := pollMove .collect (resultMoves s.cfg) s

/-- A move of the host: none while it is stuck (20_memory.md R53) [log entry 10]. -/
def hostTurn (act : State → State) (s : State) : State := if s.hostStuck then s else act s

/-- The block reset (70_reset_and_hazards.md R173, R175): the state of reset, with a fresh draw of the framebuffer; a
submitted command is abandoned and queued messages are discarded. SRC, the parameters and what the other agents have done
and will do are no state of the FBP and stay [log entry 18]. -/
def State.blockReset (s : State) : State :=
  { State.resetWith s.cfg with
    src := s.src
    fbEpoch := s.fbEpoch + 1
    commandCount := s.commandCount
    schedule := s.schedule
    hostStuck := s.hostStuck
    hostReads := s.hostReads
    accepted := s.accepted }

end Sys2Proof.Machine
end

