-- ==== Sys2Proof/Machine/Agents.lean ====
section
/-! DEFINITION. One move of one agent (00_scope.md R14), and how a command comes before the engine. -/

namespace Sys2Proof.Machine

/-- One move of one agent. -/
def moveOf (m : Move) (s : State) : Host.Outcome State Fault Refusal :=
  match m with
  | .host a => .next (hostTurn (hostMove a) s)
  | .issue w => .next (hostTurn (issueMove w) s)
  | .collect => .next (hostTurn collectMove s)
  | .engine => engineMove s
  | .adapter transferOk => .next (s.accept transferOk)
  | .progress => progressMove s
  | .srcWrite a v => .next (s.srcWrite a v)
  | .blockReset => .next s.blockReset

/-- Nobody but a stuck host is left: no command pending, no message queued, BUSY = 0 (60_exceptions.md R172). -/
def State.allStuck (s : State) : Bool := s.hostStuck && s.pending.isNone && s.outq.isEmpty && !s.busy

/-- The agent whose turn it is moves; with nothing scheduled, the engine and the adapter make progress [log entry 6], and
where the host is stuck and they have nothing to do, there is no step [log entry 10]. -/
def nextMove (s : State) : Host.Outcome State Fault Refusal :=
  match s.schedule with
  | [] => if s.allStuck then .fault .hostStuck else progressMove s
  | m :: rest => moveOf m { s with schedule := rest }

/-- The state in which `w` has just been submitted (10_state.md R24: in PENDING, BUSY = 1) and it is the engine's turn
[log entry 9]. -/
def State.withCommand (s : State) (w : Word64) : State :=
  { s with pending := some w, busy := true, schedule := .engine :: s.schedule }

/-- A program of the host (70_reset_and_hazards.md R188): its command words, each issued by the protocol of
30_encoding.md R88, then RESULT. -/
def programMoves (ws : List Word64) : List Move := ws.map .issue ++ [.collect]

end Sys2Proof.Machine
end

