-- ==== Sys2Proof/Machine/Assembler.lean ====
section
/-! DEFINITION. The assembler syntax, the pseudo-instructions and the listing format (30_encoding.md R78 to R87). The FBP
never sees any of it (R87): it turns text into command words. -/

namespace Sys2Proof

/-- Why a line is no command. -/
inductive AsmError where
  /-- A character no line may hold. -/
  | badCharacter (c : Char)
  /-- A word that is neither a number nor a colour stands as an operand. -/
  | badOperand
  /-- Tokens out of place. -/
  | malformed
  /-- No command or pseudo-instruction has this name (30_encoding.md R85). -/
  | unknownMnemonic
  /-- An operation of the document that is out of scope, refused by name (30_encoding.md R85). -/
  | excluded (name : String)
  /-- The mnemonic does not take these operands (30_encoding.md R79, R84). -/
  | wrongOperands
  /-- An operand does not fit its field (30_encoding.md R78). -/
  | doesNotFit
  deriving DecidableEq, Repr

/-- An operand: a number, a colour, or a vertex of a polyline. -/
inductive AsmOperand where
  | num (n : Nat)
  | colour (c : Colour)
  | vertex (x y : Nat)
  deriving DecidableEq, Repr

/-- A token of a line. -/
inductive Token where
  | word (cs : List Char)
  | comma
  | lpar
  | rpar
  deriving DecidableEq, Repr

/-! ## Text to tokens -/

/-- The token of the characters read so far, last first. -/
def flushWord (acc : List Char) (rest : List Token) : List Token :=
  if acc.isEmpty then rest else .word acc.reverse :: rest

/-- The tokens of a line; a comment runs from `;` to the end (R78). `acc` is the word being read, last character first. -/
def lexLine (acc : List Char) : List Char → Except AsmError (List Token)
  | [] => .ok (flushWord acc [])
  | c :: cs =>
    if c = ';' then .ok (flushWord acc [])
    else if c.isAlphanum || c = '_' then lexLine (c :: acc) cs
    else if c = ' ' || c = '\t' then (lexLine [] cs).map (flushWord acc)
    else if c = ',' then (lexLine [] cs).map (fun ts => flushWord acc (.comma :: ts))
    else if c = '(' then (lexLine [] cs).map (fun ts => flushWord acc (.lpar :: ts))
    else if c = ')' then (lexLine [] cs).map (fun ts => flushWord acc (.rpar :: ts))
    else .error (.badCharacter c)

/-- The value of a digit of base 16, in either case. -/
def digitVal (c : Char) : Option Nat :=
  if '0' ≤ c ∧ c ≤ '9' then some (c.toNat - '0'.toNat)
  else if 'a' ≤ c ∧ c ≤ 'f' then some (c.toNat - 'a'.toNat + 10)
  else if 'A' ≤ c ∧ c ≤ 'F' then some (c.toNat - 'A'.toNat + 10)
  else none

/-- The digits of a number in a base, after the value `n` of those before them. -/
def digitsVal (base n : Nat) : List Char → Option Nat
  | [] => some n
  | c :: cs =>
    match digitVal c with
    | some d => if d < base then digitsVal base (base * n + d) cs else none
    | none => none

/-- A number is decimal, or hexadecimal with prefix `0x` (R78). -/
def numberOf : List Char → Option Nat
  | [] => none
  | '0' :: 'x' :: c :: cs => digitsVal 16 0 (c :: cs)
  | cs => digitsVal 10 0 cs

/-- A word as an operand: a colour name or a number (R78). -/
def wordOperand (cs : List Char) : Except AsmError AsmOperand :=
  if cs = "BLACK".toList then .ok (.colour .black)
  else if cs = "WHITE".toList then .ok (.colour .white)
  else match numberOf cs with
    | some n => .ok (.num n)
    | none => .error .badOperand

/-! ## Tokens to operands -/

/-- The first operand of a line's tokens, and the rest. -/
def parseOperand : List Token → Except AsmError (AsmOperand × List Token)
  | .word cs :: rest => (wordOperand cs).map (fun o => (o, rest))
  | .lpar :: .word xs :: .comma :: .word ys :: .rpar :: rest =>
    match numberOf xs, numberOf ys with
    | some x, some y => .ok (.vertex x y, rest)
    | _, _ => .error .badOperand
  | _ => .error .malformed

/-- Operands separated by commas (R78); the fuel is the number of tokens. -/
def parseOperands : Nat → List Token → Except AsmError (List AsmOperand)
  | 0, _ => .error .malformed
  | fuel + 1, ts =>
    match parseOperand ts with
    | .error e => .error e
    | .ok (o, []) => .ok [o]
    | .ok (o, .comma :: rest) => (parseOperands fuel rest).map (o :: ·)
    | .ok _ => .error .malformed

/-! ## Mnemonics -/

/-- A mnemonic: a command of 30_encoding.md R72, or a pseudo-instruction with a name of its own (R81, R82, R86). -/
inductive AsmMnemonic where
  | command (o : Opcode)
  | clear
  | clrPixel
  | drawPolyline
  deriving DecidableEq, Repr

/-- The mnemonic of an opcode (30_encoding.md R72). -/
def Opcode.mnemonic : Opcode → String
  | .nop => "NOP"
  | .clearErr => "CLEAR_ERR"
  | .setPixel => "SET_PIXEL"
  | .fill => "FILL"
  | .readPixel => "READ_PIXEL"
  | .readByte => "READ_BYTE"
  | .drawBitmap => "DRAW_BITMAP"
  | .drawLine => "DRAW_LINE"
  | .drawRect => "DRAW_RECT"
  | .fillRect => "FILL_RECT"
  | .drawCircle => "DRAW_CIRCLE"
  | .fillCircle => "FILL_CIRCLE"
  | .setCursor => "SET_CURSOR"
  | .getCursor => "GET_CURSOR"
  | .setRotated => "SET_ROTATED"
  | .getRotated => "GET_ROTATED"
  | .init => "INIT"
  | .flush => "FLUSH"

/-- Every mnemonic with its spelling, upper case (R78, R85). -/
def mnemonics : List (String × AsmMnemonic) :=
  Opcode.all.map (fun o => (o.mnemonic, .command o)) ++
    [("CLEAR", .clear), ("CLR_PIXEL", .clrPixel), ("DRAW_POLYLINE", .drawPolyline)]

/-- The operations of the document that have no spelling (R85), refused by name however they are capitalised
[log entry 16]. -/
def excludedNames : List String :=
  ["draw_arc", "write_char", "write_string", "write_symbol", "set_contrast",
   "DRAW_ARC", "WRITE_CHAR", "WRITE_STRING", "WRITE_SYMBOL", "SET_CONTRAST"]

/-- The mnemonic a word spells. -/
def mnemonicOf (cs : List Char) : Except AsmError AsmMnemonic :=
  match mnemonics.find? (fun p => p.1.toList = cs) with
  | some p => .ok p.2
  | none =>
    match excludedNames.find? (fun n => n.toList = cs) with
    | some n => .error (.excluded n)
    | none => .error .unknownMnemonic

/-! ## Operands to commands -/

/-- A colour operand is `BLACK`, `WHITE`, `0` or `1` (R78). The model's choice: the number's value decides, so `0x1` and
`01` are White too [log entry 16]. -/
def AsmOperand.asColour : AsmOperand → Option Colour
  | .colour c => some c
  | .num 0 => some .black
  | .num 1 => some .white
  | _ => none

/-- A flag operand is `0` or `1` (R78). The model's choice: the number's value decides, so `0x1` and `01` are 1 too
[log entry 16]. -/
def AsmOperand.asFlag : AsmOperand → Option Bool
  | .num 0 => some false
  | .num 1 => some true
  | _ => none

/-- A command is assembled only if every operand fits its field; none is truncated (R78). -/
def checked (i : Instr) : Except AsmError (List Instr) := if i.wellFormed then .ok [i] else .error .doesNotFit

/-- A number or vertex where a colour or flag is wanted, or a number other than 0 and 1. -/
def needColour (o : AsmOperand) (k : Colour → Instr) : Except AsmError (List Instr) :=
  match o.asColour with
  | some c => checked (k c)
  | none => .error .wrongOperands

/-- A flag that is neither 0 nor 1 does not fit `E[0]`. -/
def needFlag (o : AsmOperand) (k : Bool → Instr) : Except AsmError (List Instr) :=
  match o.asFlag with
  | some b => checked (k b)
  | none => .error .doesNotFit

/-- The commands of the 18 mnemonics with their operands in order (R79), and `INIT` with no operand (R83). -/
def commandOf : Opcode → List AsmOperand → Except AsmError (List Instr)
  | .nop, [] => checked .nop
  | .clearErr, [] => checked .clearErr
  | .setPixel, [.num x, .num y, c] => needColour c (.setPixel x y)
  | .fill, [c] => needColour c .fill
  | .readPixel, [.num x, .num y] => checked (.readPixel x y)
  | .readByte, [.num index] => checked (.readByte index)
  | .drawBitmap, [.num x, .num y, .num w, .num h, .num src, c] => needColour c (.drawBitmap x y w h src)
  | .drawLine, [.num x1, .num y1, .num x2, .num y2, c] => needColour c (.drawLine x1 y1 x2 y2)
  | .drawRect, [.num x1, .num y1, .num x2, .num y2, c] => needColour c (.drawRect x1 y1 x2 y2)
  | .fillRect, [.num x1, .num y1, .num x2, .num y2, c] => needColour c (.fillRect x1 y1 x2 y2)
  | .drawCircle, [.num cx, .num cy, .num r, c] => needColour c (.drawCircle cx cy r)
  | .fillCircle, [.num cx, .num cy, .num r, c] => needColour c (.fillCircle cx cy r)
  | .setCursor, [.num x, .num y] => checked (.setCursor x y)
  | .getCursor, [] => checked .getCursor
  | .setRotated, [f] => needFlag f .setRotated
  | .getRotated, [] => checked .getRotated
  | .init, [] => checked (.init true)
  | .init, [f] => needFlag f .init
  | .flush, [] => checked .flush
  | _, _ => .error .wrongOperands

/-- The lines between consecutive vertices (R86): none for fewer than two vertices. -/
def polylineFrom (c : Colour) (x y : Nat) : List AsmOperand → Except AsmError (List Instr)
  | [] => .ok []
  | .vertex x' y' :: vs =>
    match checked (.drawLine x y x' y' c), polylineFrom c x' y' vs with
    | .ok l, .ok ls => .ok (l ++ ls)
    | .error e, _ => .error e
    | _, .error e => .error e
  | _ => .error .wrongOperands

/-- `DRAW_POLYLINE color, (x0, y0), ..., (xn, yn)` (R86). -/
def polylineOf (c : Colour) : List AsmOperand → Except AsmError (List Instr)
  | [] => .ok []
  | .vertex x y :: vs => if Fits8 x ∧ Fits8 y then polylineFrom c x y vs else .error .doesNotFit
  | _ => .error .wrongOperands

/-- The commands a mnemonic with operands expands to (R79, R81, R82, R86). -/
def expand : AsmMnemonic → List AsmOperand → Except AsmError (List Instr)
  | .command o, ops => commandOf o ops
  | .clear, [] => checked (.fill .black)
  | .clrPixel, [.num x, .num y] => checked (.setPixel x y .black)
  | .drawPolyline, c :: vs =>
    match c.asColour with
    | some c => polylineOf c vs
    | none => .error .wrongOperands
  | _, _ => .error .wrongOperands

/-! ## Lines and programs -/

/-- The commands of one line; none for an empty line or a comment (R78, R86). Which error comes first is the model's
choice: the whole line is lexed, then the name is looked up, then the operands are read, so a line with a character no
token admits is refused for it before an excluded name is (R85) [log entry 16]. -/
def assembleLine (line : String) : Except AsmError (List Instr) :=
  match lexLine [] line.toList with
  | .error e => .error e
  | .ok [] => .ok []
  | .ok (.word m :: ts) =>
    match mnemonicOf m with
    | .error e => .error e
    | .ok mn =>
      match ts with
      | [] => expand mn []
      | _ :: _ =>
        match parseOperands ts.length ts with
        | .error e => .error e
        | .ok ops => expand mn ops
  | .ok _ => .error .malformed

/-- The words of a command program, one command per line (R80). -/
def assembleProgram : List String → Except AsmError (List Word64)
  | [] => .ok []
  | l :: ls =>
    match assembleLine l, assembleProgram ls with
    | .ok is, .ok ws => .ok (is.map encode ++ ws)
    | .error e, _ => .error e
    | _, .error e => .error e

/-- A colour as the assembler spells it (R78). -/
def Colour.text : Colour → String
  | .black => "BLACK"
  | .white => "WHITE"

/-- A flag as an operand (R78). -/
def flagOperand (b : Bool) : AsmOperand := .num (if b then 1 else 0)

/-- The operands of a command, in the order of R79. -/
def Instr.asmOperands : Instr → List AsmOperand
  | .nop | .clearErr | .getCursor | .getRotated | .flush => []
  | .setPixel x y c => [.num x, .num y, .colour c]
  | .fill c => [.colour c]
  | .readPixel x y => [.num x, .num y]
  | .readByte index => [.num index]
  | .drawBitmap x y w h src c => [.num x, .num y, .num w, .num h, .num src, .colour c]
  | .drawLine x1 y1 x2 y2 c => [.num x1, .num y1, .num x2, .num y2, .colour c]
  | .drawRect x1 y1 x2 y2 c => [.num x1, .num y1, .num x2, .num y2, .colour c]
  | .fillRect x1 y1 x2 y2 c => [.num x1, .num y1, .num x2, .num y2, .colour c]
  | .drawCircle cx cy r c => [.num cx, .num cy, .num r, .colour c]
  | .fillCircle cx cy r c => [.num cx, .num cy, .num r, .colour c]
  | .setCursor x y => [.num x, .num y]
  | .setRotated rot => [flagOperand rot]
  | .init bind => [flagOperand bind]

/-- An operand as the assembler spells it (R78, R86). -/
def AsmOperand.text : AsmOperand → String
  | .num n => n.repr
  | .colour c => c.text
  | .vertex x y => "(" ++ x.repr ++ ", " ++ y.repr ++ ")"

/-- The assembler text of a command: the mnemonic, then a space and the operands separated by commas (R78, R79). -/
def Instr.text (i : Instr) : String :=
  match i.asmOperands.map AsmOperand.text with
  | [] => i.opcode.mnemonic
  | o :: os => i.opcode.mnemonic ++ " " ++ os.foldl (fun t u => t ++ ", " ++ u) o

/-- An upper-case hexadecimal digit. -/
def hexDigit (n : BitVec 4) : Char := if n.toNat < 10 then Char.ofNat (48 + n.toNat) else Char.ofNat (55 + n.toNat)

/-- A command word as 16 hexadecimal digits (R80). -/
def hex16 (w : Word64) : List Char := (List.range 16).map fun k => hexDigit (w.extractLsb' (60 - 4 * k) 4)

/-- A listing line: the word, two spaces, the text (R80). -/
def listingLine (i : Instr) : String := String.ofList (hex16 (encode i)) ++ "  " ++ i.text

end Sys2Proof
end

