-- ==== Sys2Proof/Machine/Configure.lean ====
section
/-! DEFINITION. Building an FBP from raw parameters: only the legal values of 00_scope.md R7 are admitted, and an illegal
configuration is refused with the parameter's name instead of being given a meaning (60_exceptions.md R160). -/

namespace Sys2Proof

/-- Parameters as a build would give them, of any value. -/
structure RawConfig where
  width : Nat
  height : Nat
  xOffset : Nat
  yOffset : Nat
  transport : Transport
  i2cAddr : Nat
  mirrorH : Bool
  mirrorV : Bool
  invert : Bool
  initSeq : List Byte
  colStart : Nat
  flushBeforeReady : FlushPolicy
  resetDelayMs : Nat
  fbpBase : Nat
  deriving DecidableEq, Repr

/-- Which parameter is illegal (00_scope.md R7). -/
inductive ConfigError where
  | width
  | height
  | xOffset
  | yOffset
  | i2cAddr
  | colStart
  | resetDelayMs
  deriving DecidableEq, Repr

/-- The panel height of a number of rows: 32, 64 or 128 (00_scope.md R7). -/
def PanelHeight.ofRows (n : Nat) : Option PanelHeight :=
  if n = 32 then some .rows32 else if n = 64 then some .rows64 else if n = 128 then some .rows128 else none

/-- `WIDTH - 1` of a legal width 1..128 (00_scope.md R7). -/
def widthPredOf (n : Nat) : Option (Fin 128) := if h : 1 ≤ n ∧ n ≤ 128 then some ⟨n - 1, by omega⟩ else none

/-- The FBP of raw parameters, or the first illegal parameter (00_scope.md R7, 60_exceptions.md R160)
[log entry 15]. -/
def RawConfig.build (r : RawConfig) : Except ConfigError Config :=
  match widthPredOf r.width, PanelHeight.ofRows r.height with
  | none, _ => .error .width
  | some _, none => .error .height
  | some w, some h =>
    if r.xOffset ≥ 256 then .error .xOffset
    else if r.yOffset ≥ 256 then .error .yOffset
    else if r.i2cAddr ≥ 128 then .error .i2cAddr
    else if r.colStart ≥ 128 then .error .colStart
    else if r.resetDelayMs ≠ 10 then .error .resetDelayMs
    else .ok
      { widthPred := w
        panelHeight := h
        xOffset := BitVec.ofNat 8 r.xOffset
        yOffset := BitVec.ofNat 8 r.yOffset
        transport := r.transport
        i2cAddr := BitVec.ofNat 7 r.i2cAddr
        mirrorH := r.mirrorH
        mirrorV := r.mirrorV
        invert := r.invert
        initSeq := r.initSeq
        colStart := BitVec.ofNat 7 r.colStart
        flushBeforeReady := r.flushBeforeReady
        fbpBase := r.fbpBase }

end Sys2Proof
end

