-- ==== Sys2Proof/Safety.lean ====
section
/-! DEFINITION. What counts as a safe state and a safe run, in the terms the claims use: the machine's invariant, the
launch premise (70_reset_and_hazards.md R189), the host that polls (30_encoding.md R88), and how a claim says what a
drawing command did to the framebuffer and what it left alone. -/

namespace Sys2Proof

/-- The numbers an operand gives (30_encoding.md R78): BLACK is 0 and WHITE is 1. -/
def AsmOperand.numbers : AsmOperand → List Nat
  | .num n => [n]
  | .colour .black => [0]
  | .colour .white => [1]
  | .vertex x y => [x, y]

end Sys2Proof

namespace Sys2Proof.Machine

/-! ## The words of a row -/

/-- The words whose masked bits match decode to the command with the operands taken from their fields (30_encoding.md
R73). -/
def SelectedBy (mask word : Word64) (command : Word64 → Instr) : Prop :=
  ∀ w : Word64, w &&& mask = word → decode w = .ok (command w)

/-! ## What drawing does -/

/-- The pixel that bit `b` of framebuffer byte `i` holds (20_memory.md R45). -/
def pixelOfBit (cfg : Config) (i b : Nat) : Nat × Nat := (i % cfg.width, i / cfg.width * 8 + b)

/-- Bit `b` of byte `i` is the bit of an in-range pixel that lies in `S`. -/
def InSet (cfg : Config) (S : Nat × Nat → Prop) (i b : Nat) : Prop := i < cfg.fbLen ∧ S (pixelOfBit cfg i b)

/-- The paint-set view of a drawing command (40_bitpacker.md R90), over every bit of every byte: each in-range pixel of `S`
has colour `c` after, every other bit of every byte is as before, and nothing else of the state changed. -/
def PaintedExactly (s t : State) (S : Nat × Nat → Prop) (c : Colour) : Prop :=
  t = { s with fb := t.fb } ∧
    ∀ i b, b < 8 →
      (InSet s.cfg S i b → (t.fbRead i).getLsbD b = c.isWhite) ∧
        (¬InSet s.cfg S i b → (t.fbRead i).getLsbD b = (s.fbRead i).getLsbD b)

/-- The pixels of a list of coordinates. -/
def OnList (pts : List (Int × Int)) : Nat × Nat → Prop := fun p => ((p.1 : Int), (p.2 : Int)) ∈ pts

/-- The box between two corners, bounds inclusive (41_rasterizers.md R109). -/
def InBox (x1 y1 x2 y2 : Nat) : Nat × Nat → Prop :=
  fun p => min x1 x2 ≤ p.1 ∧ p.1 ≤ max x1 x2 ∧ min y1 y2 ≤ p.2 ∧ p.2 ≤ max y1 y2

/-- The boundary of that box (41_rasterizers.md R110). -/
def OnBoxBoundary (x1 y1 x2 y2 : Nat) : Nat × Nat → Prop :=
  fun p => InBox x1 y1 x2 y2 p ∧ (p.1 = x1 ∨ p.1 = x2 ∨ p.2 = y1 ∨ p.2 = y2)

/-- The distance of two coordinates. -/
def gap (a b : Nat) : Int := ((a : Int) - (b : Int)).natAbs

/-- The four points of some step of the circle walk (41_rasterizers.md R113): offset `(-x, y)` up to signs. -/
def OnCircle (cx cy r : Nat) : Nat × Nat → Prop :=
  fun p => ∃ q ∈ circleWalk r, gap p.1 cx = -q.1 ∧ gap p.2 cy = q.2

/-- The two spans of some step of the circle walk (41_rasterizers.md R115). -/
def InDisc (cx cy r : Nat) : Nat × Nat → Prop :=
  fun p => ∃ q ∈ circleWalk r, gap p.1 cx ≤ -q.1 ∧ gap p.2 cy = q.2

/-- The set source bits of a bitmap at origin `(x, y)` (40_bitpacker.md R96), with `read` the source memory. -/
def OnBitmap (read : Nat → Byte) (x y w h src : Nat) : Nat × Nat → Prop :=
  fun p => ∃ i j, i < w ∧ j < h ∧ p = (x + i, y + j) ∧
    (read ((src + j * ((w + 7) / 8) + i / 8) % 65536)).getLsbD (7 - i % 8) = true

/-! ## The invariant -/

/-- The payload of a message of each kind (43_sequencer.md R133, R135, R142). -/
abbrev MessageOk (cfg : Config) (m : Message) : Prop :=
  (m.kind = .reset → m.payload = [0x00#8] ∨ m.payload = [0x01#8]) ∧
    (m.kind = .delay → m.payload.length = 1) ∧
    (m.kind = .writeCommand → m.payload.length = 1) ∧
    (m.kind = .writeData → m.payload.length = cfg.width)

/-- The framebuffer and the source memory are canonical and inside their address spaces (20_memory.md R46, R47). -/
abbrev MemoryOk (s : State) : Prop :=
  Mem.Wf s.fb ∧ Mem.Below s.cfg.fbLen s.fb ∧ Mem.Wf s.src ∧ Mem.Below 65536 s.src

/-- BUSY covers the whole life of a command (10_state.md R25, R36): a submitted command waits alone, and a queued message
keeps BUSY up. -/
abbrev HandshakeOk (s : State) : Prop :=
  (s.pending.isSome = true → s.busy = true ∧ s.outq = []) ∧ (s.outq ≠ [] → s.busy = true) ∧
    (s.srcRace ≠ [] → s.pending.isSome = true)

/-- PSTATE agrees with the unaccepted messages (43_sequencer.md R140): `Resetting` while a reset-phase message is
unaccepted, `Configuring` only while a configuration byte is. -/
abbrev PhaseOk (s : State) : Prop :=
  (hasPhase s.outq .reset = true ↔ s.pstate = .resetting) ∧
    (s.pstate = .configuring → hasPhase s.outq .config = true) ∧
    (hasPhase s.outq .config = true → s.pstate = .resetting ∨ s.pstate = .configuring)

/-- A cursor register holds a result of SET_CURSOR (42_transforms.md R125). -/
abbrev CursorOk (v : BitVec 16) : Prop := -255 ≤ v.toInt ∧ v.toInt ≤ 255

/-- The machine's invariant. ERR is one of the assigned codes (60_exceptions.md R154). -/
abbrev Inv (s : State) : Prop :=
  MemoryOk s ∧ HandshakeOk s ∧ PhaseOk s ∧ CursorOk s.cursorX ∧ CursorOk s.cursorY ∧ s.err.toNat ≤ 4 ∧
    ∀ m ∈ s.outq, MessageOk s.cfg m.msg

/-- It is the engine's turn to take the command of PENDING, with `rest` the moves after: the schedule says so, or says that
whoever has something to do moves, or nothing is scheduled. -/
def EnginesTurn (s : State) (rest : List Move) : Prop :=
  s.schedule = .engine :: rest ∨ s.schedule = .progress :: rest ∨ s.schedule = [] ∧ rest = []

/-- The launch premise (70_reset_and_hazards.md R189): BUSY = 0, PENDING empty, OUTQ empty. -/
abbrev Idle (s : State) : Prop := s.busy = false ∧ s.pending = none ∧ s.outq = []

/-! ## The host that polls -/

/-- A move of a host that follows the protocol of 30_encoding.md R88, or of another agent: commands are issued by
polling, and no access of its own writes the window. -/
def Move.polite : Move → Bool
  | .host (.read _ _) => true
  | .host (.write _ _ _) => false
  | .issue _ => true
  | .collect => true
  | .engine => true
  | .adapter _ => true
  | .progress => true
  | .srcWrite _ _ => true
  | .blockReset => true

/-- The schedule of a run whose host follows the protocol: polite moves only, or, once a poll has read BUSY = 0, the
writes of CMD0 and CMD1 (or the second of them) first. -/
def PollingHost (s : State) : Prop :=
  s.schedule.all Move.polite = true ∨
    ∃ w rest, rest.all Move.polite = true ∧ s.busy = false ∧ s.pending = none ∧
      (s.schedule = submitMoves s.cfg w ++ rest ∨ s.schedule = (submitMoves s.cfg w).tail ++ rest)

/-! ## The output as one sequence -/

/-- Every message the FBP has emitted and not discarded, in order: the accepted ones, then the queued ones
(20_memory.md R60). -/
def State.emitted (s : State) : List Message := s.accepted.map (·.msg) ++ s.outq.map (·.msg)

/-! ## Who writes what (10_state.md R41) -/

/-- The state elements of the access matrix's columns that a command may write (10_state.md R41); `err` is true for the
commands that can raise an error or clear it. -/
structure Writes where
  fb : Bool := false
  cursor : Bool := false
  rotation : Bool := false
  protocol : Bool := false
  err : Bool := false
  result : Bool := false
  outq : Bool := false
  pending : Bool := false
  deriving DecidableEq, Repr

/-- The rows of the access matrix (10_state.md R41). FLUSH alone can raise an error once dispatched, which writes ERR and
empties PENDING (60_exceptions.md R155). -/
def writesOf : Instr → Writes
  | .nop => {}
  | .clearErr => { err := true }
  | .setPixel _ _ _ => { fb := true }
  | .fill _ => { fb := true }
  | .readPixel _ _ => { result := true }
  | .readByte _ => { result := true }
  | .drawBitmap _ _ _ _ _ _ => { fb := true }
  | .drawLine _ _ _ _ _ => { fb := true }
  | .drawRect _ _ _ _ _ => { fb := true }
  | .fillRect _ _ _ _ _ => { fb := true }
  | .drawCircle _ _ _ _ => { fb := true }
  | .fillCircle _ _ _ _ => { fb := true }
  | .setCursor _ _ => { cursor := true }
  | .getCursor => { result := true }
  | .setRotated _ => { rotation := true }
  | .getRotated => { result := true }
  | .init _ => { protocol := true, outq := true }
  | .flush => { outq := true, err := true, pending := true }

/-- The pixels whose bits a drawing command may write (10_state.md R41, "RW (bits)"; 40_bitpacker.md R91, R92, R96,
41_rasterizers.md R106, R109, R110, R113, R115); no other command writes any. -/
def drawnPixels (s : State) : Instr → Nat × Nat → Prop
  | .setPixel x y _ => fun p => p = (x, y)
  | .fill _ => fun _ => True
  | .drawBitmap x y w h src _ => fun p => (x < s.cfg.width ∧ y < s.cfg.height) ∧ OnBitmap s.srcRead x y w h src p
  | .drawLine x1 y1 x2 y2 _ => OnList (lineWalk x1 y1 x2 y2)
  | .drawRect x1 y1 x2 y2 _ => OnBoxBoundary x1 y1 x2 y2
  | .fillRect x1 y1 x2 y2 _ => InBox x1 y1 x2 y2
  | .drawCircle cx cy r _ => fun p => (cx < s.cfg.width ∧ cy < s.cfg.height) ∧ OnCircle cx cy r p
  | .fillCircle cx cy r _ => fun p => (cx < s.cfg.width ∧ cy < s.cfg.height) ∧ InDisc cx cy r p
  | .nop | .clearErr | .readPixel _ _ | .readByte _ | .setCursor _ _ | .getCursor | .setRotated _ | .getRotated
  | .init _ | .flush => fun _ => False

/-- `t` differs from `s` at most in what the row allows. -/
def ChangedOnly (w : Writes) (s t : State) : Prop :=
  t = { s with
    fb := if w.fb then t.fb else s.fb
    cursorX := if w.cursor then t.cursorX else s.cursorX
    cursorY := if w.cursor then t.cursorY else s.cursorY
    rotation := if w.rotation then t.rotation else s.rotation
    pstate := if w.protocol then t.pstate else s.pstate
    txBound := if w.protocol then t.txBound else s.txBound
    err := if w.err then t.err else s.err
    result := if w.result then t.result else s.result
    outq := if w.outq then t.outq else s.outq
    pending := if w.pending then t.pending else s.pending }

end Sys2Proof.Machine
end

