-- ==== Sys2Proof/Certificates/Slice0/Obligations.lean ====
section
/-! DEFINITION. The statements for the provers. Each docstring names the rule of spec/ it formalises. -/

open Sys2Proof Sys2Proof.Machine

/-! ## Encoding -/

/-- 30_encoding.md R72, R73, R79: decoding the word of a well-formed command gives the command back, every operand at
every value its field admits. -/
def Obligations.DecodeOfEncodeIsTheCommand : Prop :=
  ∀ i : Instr, i.wellFormed = true → decode (encode i) = .ok i

/-- The other direction: a word that decodes is the encoding of what it decodes to, which is well-formed; no bit of the
word is dropped. -/
def Obligations.EncodeOfDecodedIsTheWord : Prop :=
  ∀ (w : Word64) (i : Instr), decode w = .ok i → i.wellFormed = true ∧ encode i = w

/-- 30_encoding.md R73: a word selects the one row whose `(cmd & mask) = match`; ILLEGAL_OP exactly when no row has the
opcode byte; RSV_NONZERO exactly when the row of the opcode byte has a reserved bit set. -/
def Obligations.WordSelectsItsOnlyRow : Prop :=
  ∀ w : Word64,
    (∀ i, decode w = .ok i ↔ ∃ o : Opcode, w &&& o.mask = o.matchWord ∧ i = o.operands w) ∧
      (∀ o o' : Opcode, w &&& o.mask = o.matchWord → w &&& o'.mask = o'.matchWord → o = o') ∧
        (decode w = .error .illegalOp ↔ ∀ o : Opcode, o.byte ≠ opField w) ∧
          (decode w = .error .rsvNonzero ↔
            ∃ o : Opcode, o.byte = opField w ∧ w &&& (o.mask &&& 0x00FFFFFFFFFFFFFF#64) ≠ 0#64)

/-- One word of each unit of 30_encoding.md R72, written out from the encodings of R73, decodes to the command it stands
for (the words are those of 95_test_vectors.md). -/
def Obligations.WordsOfTheSpecDecodeToTheirCommands : Prop :=
  decode 0x0100000000000000#64 = .ok .clearErr ∧
    decode 0x1080030A00000000#64 = .ok (.setPixel 3 10 .white) ∧
      decode 0x148000000A020100#64 = .ok (.drawBitmap 0 0 10 2 0x0100 .white) ∧
        decode 0x2280040301010000#64 = .ok (.fillRect 4 3 1 1 .white) ∧
          decode 0x30000A1400000000#64 = .ok (.setCursor 10 20) ∧
            decode 0x4000000000000001#64 = .ok (.init true) ∧ decode 0x1001000000000000#64 = .error .rsvNonzero

/-! ## The step and the rejected words -/

/-- 10_state.md R36: in the engine's turn, step takes the word of PENDING and is exec of the command it decodes to; around
exec, PENDING is emptied, and the model's own fields forget the raced source bytes and count the command (log entry 4).
BUSY is as exec leaves it (log entry 7). The same holds for the word that withFetchWord places (log entry 9). -/
def Obligations.StepExecutesThePendingCommand : Prop :=
  (∀ (s : State) (w : Word64) (i : Instr) (rest : List Move) (t : State),
      s.pending = some w → decode w = .ok i → EnginesTurn s rest → exec i { s with schedule := rest } = .next t →
        step s = .next { t with pending := none, srcRace := [], commandCount := t.commandCount + 1 }) ∧
    ∀ (s : State) (w : Word64) (i : Instr) (t : State),
      decode w = .ok i → exec i { s with pending := some w, busy := true } = .next t →
        step (s.withFetchWord 64 w.toNat) =
          .next { t with pending := none, srcRace := [], commandCount := t.commandCount + 1 }

/-- 30_encoding.md R75: an unassigned opcode is not executed; dispatch records code 1 if ERR is 0 and nothing else of the
FBP changes but PENDING, which is emptied (60_exceptions.md R155). -/
def Obligations.IllegalOpcodeOnlyRecordsItsCode : Prop :=
  ∀ (s : State) (w : Word64) (rest : List Move),
    s.pending = some w → EnginesTurn s rest → (∀ o : Opcode, o.byte ≠ opField w) →
      step s = .next
        { s with
          schedule := rest
          err := if s.err = 0#4 then 1#4 else s.err
          pending := none
          srcRace := []
          commandCount := s.commandCount + 1 }

/-- 30_encoding.md R74: a command with a reserved-must-be-zero bit set is not executed; dispatch records code 2 if ERR is 0
and the command has no other effect. -/
def Obligations.ReservedBitOnlyRecordsItsCode : Prop :=
  ∀ (s : State) (w : Word64) (o : Opcode) (rest : List Move),
    s.pending = some w → EnginesTurn s rest → o.byte = opField w → w &&& o.rsvMask ≠ 0#64 →
      step s = .next
        { s with
          schedule := rest
          err := if s.err = 0#4 then 2#4 else s.err
          pending := none
          srcRace := []
          commandCount := s.commandCount + 1 }

/-! ## Control and bit-packer commands

Each command's statement gives the words of its row (SelectedBy), and then that it answers a next state, which one, and
so what it leaves unchanged: everything not named. -/

/-- 44_control.md R150: only the all-zero word is a NOP, any other word with its opcode has a reserved bit set, and NOP
changes nothing. -/
def Obligations.NopChangesNothing : Prop :=
  decode 0#64 = .ok .nop ∧ (∀ w : Word64, opField w = 0x00#8 → w ≠ 0#64 → decode w = .error .rsvNonzero) ∧
    ∀ s : State, exec .nop s = .next s

/-- 44_control.md R151: CLEAR_ERR sets ERR to 0 and changes nothing else; a malformed one has a reserved bit set. -/
def Obligations.ClearErrZeroesErr : Prop :=
  decode 0x0100000000000000#64 = .ok .clearErr ∧
    (∀ w : Word64, opField w = 0x01#8 → w ≠ 0x0100000000000000#64 → decode w = .error .rsvNonzero) ∧
      ∀ s : State, exec .clearErr s = .next { s with err := 0#4 }

/-- 40_bitpacker.md R91, R89: SET_PIXEL writes the one bit of its pixel if the pixel is in range, keeps every other bit of
every byte, and out of range changes nothing at all. -/
def Obligations.SetPixelWritesOneBit : Prop :=
  SelectedBy 0xFF7F0000FFFFFFFF#64 0x1000000000000000#64
      (fun w => .setPixel (aField w).toNat (bField w).toNat (Colour.ofBit (kField w))) ∧
    ∀ (s : State) (x y : Nat) (c : Colour),
      (∃ t, exec (.setPixel x y c) s = .next t ∧ PaintedExactly s t (fun p => p = (x, y)) c) ∧
        (x ≥ s.cfg.width ∨ y ≥ s.cfg.height → exec (.setPixel x y c) s = .next s)

/-- 40_bitpacker.md R92: FILL sets every byte of the framebuffer to 0xFF or 0x00 and nothing else. -/
def Obligations.FillSetsEveryByte : Prop :=
  SelectedBy 0xFF7FFFFFFFFFFFFF#64 0x1100000000000000#64 (fun w => .fill (Colour.ofBit (kField w))) ∧
    ∀ (s : State) (c : Colour),
      ∃ t, exec (.fill c) s = .next t ∧ t = { s with fb := t.fb } ∧
        ∀ i, t.fbRead i = if i < s.cfg.fbLen then (if c = .white then 0xFF#8 else 0x00#8) else s.fbRead i

/-- 40_bitpacker.md R93: FILL gives the framebuffer that setting every in-range pixel gives. -/
def Obligations.FillPaintsEveryPixel : Prop :=
  ∀ (s : State) (c : Colour),
    ∃ t, exec (.fill c) s = .next t ∧ PaintedExactly s t (fun p => p.1 < s.cfg.width ∧ p.2 < s.cfg.height) c

/-- 40_bitpacker.md R94: RESULT after READ_PIXEL is 3 or 2 for an in-range White or Black pixel, 0 out of range; nothing
else changes. -/
def Obligations.ReadPixelReportsThePixel : Prop :=
  SelectedBy 0xFFFF0000FFFFFFFF#64 0x1200000000000000#64 (fun w => .readPixel (aField w).toNat (bField w).toNat) ∧
    ∀ (s : State) (x y : Nat),
      exec (.readPixel x y) s = .next
        { s with
          result :=
            if x < s.cfg.width ∧ y < s.cfg.height then
              (if (s.fbRead (x + y / 8 * s.cfg.width)).getLsbD (y % 8) then 3#32 else 2#32)
            else 0#32 }

/-- 40_bitpacker.md R95: RESULT after READ_BYTE is 0x100 plus the byte for an index below FB_LEN, else 0; nothing else
changes. -/
def Obligations.ReadByteReportsTheByte : Prop :=
  SelectedBy 0xFFFFFFFFFFFF0000#64 0x1300000000000000#64 (fun w => .readByte (eField w).toNat) ∧
    ∀ (s : State) (i : Nat),
      ∃ t, exec (.readByte i) s = .next t ∧ t = { s with result := t.result } ∧
        (i < s.cfg.width * s.cfg.height / 8 → t.result.toNat = 0x100 + (s.fbRead i).toNat) ∧
          (s.cfg.width * s.cfg.height / 8 ≤ i → t.result = 0#32)

/-- 40_bitpacker.md R96, R97: DRAW_BITMAP plots exactly the set source bits, MSB first, rows padded to whole bytes, and
leaves the background; with the origin out of range it changes nothing. -/
def Obligations.DrawBitmapPaintsTheSetSourceBits : Prop :=
  SelectedBy 0xFF7F000000000000#64 0x1400000000000000#64
      (fun w => .drawBitmap (aField w).toNat (bField w).toNat (cField w).toNat (dField w).toNat (eField w).toNat
        (Colour.ofBit (kField w))) ∧
    ∀ (s : State) (x y w h src : Nat) (c : Colour),
      (x < s.cfg.width ∧ y < s.cfg.height →
          ∃ t, exec (.drawBitmap x y w h src c) s = .next t ∧
            PaintedExactly s t (OnBitmap s.srcRead x y w h src) c) ∧
        (x ≥ s.cfg.width ∨ y ≥ s.cfg.height → exec (.drawBitmap x y w h src c) s = .next s)

/-- 40_bitpacker.md R98: with the origin in range DRAW_BITMAP paints from the source bytes read at the addresses of
bitmapReads, in that order: h * byteWidth addresses, row by row, none twice. It reads nothing else: two source memories
that agree on them give the same framebuffer. Out of range no source byte matters. -/
def Obligations.DrawBitmapReadsEachSourceByteOnce : Prop :=
  ∀ w h src : Nat, Fits8 w → Fits8 h →
    (∀ (s : State) (x y : Nat) (c : Colour),
      (x < s.cfg.width ∧ y < s.cfg.height →
          exec (.drawBitmap x y w h src c) s =
            .next (s.paint (bitmapPoints x y w h ((bitmapReads w h src).map s.srcRead)) c)) ∧
        (x ≥ s.cfg.width ∨ y ≥ s.cfg.height → ∀ (m : Mem) (race : List Host.Cell),
          exec (.drawBitmap x y w h src c) { s with src := m, srcRace := race } =
            .next { s with src := m, srcRace := race })) ∧
    (bitmapReads w h src).length = h * ((w + 7) / 8) ∧ (bitmapReads w h src).Nodup ∧
      (∀ j k, j < h → k < (w + 7) / 8 →
        (bitmapReads w h src)[j * ((w + 7) / 8) + k]? = some ((src + j * ((w + 7) / 8) + k) % 65536)) ∧
        ∀ (s : State) (m : Mem) (race : List Host.Cell) (x y : Nat) (c : Colour) (t t' : State),
          (∀ a ∈ bitmapReads w h src, State.srcRead { s with src := m, srcRace := race } a = s.srcRead a) →
            exec (.drawBitmap x y w h src c) s = .next t →
              exec (.drawBitmap x y w h src c) { s with src := m, srcRace := race } = .next t' → t'.fb = t.fb

/-- 20_memory.md R47, R64: a source read wraps modulo 2^16; it gives the byte last written there, or, while a submitted
command has not executed and the platform overwrote it, that byte or one of those overwritten (which one is the free value
of log entry 4). -/
def Obligations.SourceReadIsOldOrNewByte : Prop :=
  ∀ (s : State) (a : BitVec 16) (v : Byte) (n : Nat),
    (s.srcWrite a v).srcRead (a.toNat + 65536 * n) ∈
        (if s.pending.isSome then v :: Mem.read Config.srcContents s.src a.toNat :: s.srcOlds a.toNat
          else v :: s.srcOlds a.toNat) ∧
      ∀ b : BitVec 16, b ≠ a → s.srcOlds b.toNat = [] → (s.srcWrite a v).srcRead b.toNat = s.srcRead b.toNat

/-- 20_memory.md R45: every in-range pixel is held by exactly one bit, of a byte below FB_LEN, and every bit of every byte
holds an in-range pixel. -/
def Obligations.EveryBitHoldsExactlyOnePixel : Prop :=
  ∀ c : Config,
    (∀ x y, x < c.width → y < c.height →
        c.index x y < c.width * c.height / 8 ∧ bitOf y < 8 ∧ c.index x y = x + y / 8 * c.width ∧ bitOf y = y % 8) ∧
      ∀ i b, i < c.width * c.height / 8 → b < 8 →
        ∃ x y, (x < c.width ∧ y < c.height ∧ c.index x y = i ∧ bitOf y = b) ∧
          ∀ x' y', x' < c.width → y' < c.height → c.index x' y' = i → bitOf y' = b → x' = x ∧ y' = y

/-! ## Rasterizer commands -/

/-- 41_rasterizers.md R107: the line walk yields max(dx, dy) + 1 distinct coordinates, the terminal pixel first and then
the start, every one between the endpoints, moving monotonically toward the terminal pixel; and it is not symmetric in
its endpoints. -/
def Obligations.LineWalkVisitsMaxPlusOnePoints : Prop :=
  (∀ x1 y1 x2 y2 : Nat,
      ((lineWalk x1 y1 x2 y2).length : Int) = max (absDiff x1 x2) (absDiff y1 y2) + 1 ∧
        (lineWalk x1 y1 x2 y2).Nodup ∧
          (lineWalk x1 y1 x2 y2)[0]? = some ((x2 : Int), (y2 : Int)) ∧
            ((x1, y1) ≠ (x2, y2) → (lineWalk x1 y1 x2 y2)[1]? = some ((x1 : Int), (y1 : Int))) ∧
              (∀ p ∈ lineWalk x1 y1 x2 y2,
                ((min x1 x2 : Nat) : Int) ≤ p.1 ∧ p.1 ≤ ((max x1 x2 : Nat) : Int) ∧ ((min y1 y2 : Nat) : Int) ≤ p.2 ∧
                  p.2 ≤ ((max y1 y2 : Nat) : Int)) ∧
                (lineWalk x1 y1 x2 y2).tail.Pairwise fun p q =>
                  ((x2 : Int) - q.1).natAbs ≤ ((x2 : Int) - p.1).natAbs ∧
                    ((y2 : Int) - q.2).natAbs ≤ ((y2 : Int) - p.2).natAbs) ∧
    (0, 1) ∈ lineWalk 0 0 1 2 ∧ (0, 1) ∉ lineWalk 1 2 0 0

/-- 41_rasterizers.md R106: DRAW_LINE paints exactly the in-range points of the walk. -/
def Obligations.DrawLinePaintsTheWalk : Prop :=
  SelectedBy 0xFF7F00000000FFFF#64 0x2000000000000000#64
      (fun w => .drawLine (aField w).toNat (bField w).toNat (cField w).toNat (dField w).toNat (Colour.ofBit (kField
        w))) ∧
    ∀ (s : State) (x1 y1 x2 y2 : Nat) (c : Colour),
      ∃ t, exec (.drawLine x1 y1 x2 y2 c) s = .next t ∧ PaintedExactly s t (OnList (lineWalk x1 y1 x2 y2)) c

/-- 41_rasterizers.md R106 (corner cases): a horizontal or vertical line paints every point between its endpoints, an exact
diagonal the points that step x and y together. -/
def Obligations.StraightLinesPaintEveryPointBetween : Prop :=
  ∀ (s : State) (x1 y1 x2 y2 : Nat) (c : Colour),
    (y1 = y2 ∨ x1 = x2 →
        ∃ t, exec (.drawLine x1 y1 x2 y2 c) s = .next t ∧ PaintedExactly s t (InBox x1 y1 x2 y2) c) ∧
      (absDiff x1 x2 = absDiff y1 y2 →
        ∃ t, exec (.drawLine x1 y1 x2 y2 c) s = .next t ∧
          PaintedExactly s t
            (fun p => InBox x1 y1 x2 y2 p ∧
              ((p.1 : Int) - x1) * ((y2 : Int) - y1) = ((p.2 : Int) - y1) * ((x2 : Int) - x1)) c)

/-- 41_rasterizers.md R108, R110: DRAW_RECT paints exactly the in-range part of the boundary of the box, whatever the order
of the corners. -/
def Obligations.DrawRectPaintsTheBoundary : Prop :=
  SelectedBy 0xFF7F00000000FFFF#64 0x2100000000000000#64
      (fun w => .drawRect (aField w).toNat (bField w).toNat (cField w).toNat (dField w).toNat (Colour.ofBit (kField
        w))) ∧
    ∀ (s : State) (x1 y1 x2 y2 : Nat) (c : Colour),
      ∃ t, exec (.drawRect x1 y1 x2 y2 c) s = .next t ∧ PaintedExactly s t (OnBoxBoundary x1 y1 x2 y2) c

/-- 41_rasterizers.md R109: FILL_RECT paints exactly the in-range part of the box, both bounds inclusive, whatever the order
of the corners. -/
def Obligations.FillRectPaintsTheBox : Prop :=
  SelectedBy 0xFF7F00000000FFFF#64 0x2200000000000000#64
      (fun w => .fillRect (aField w).toNat (bField w).toNat (cField w).toNat (dField w).toNat (Colour.ofBit (kField
        w))) ∧
    ∀ (s : State) (x1 y1 x2 y2 : Nat) (c : Colour),
      ∃ t, exec (.fillRect x1 y1 x2 y2 c) s = .next t ∧ PaintedExactly s t (InBox x1 y1 x2 y2) c

/-- 41_rasterizers.md R112: for every radius an operand can have, the circle walk ends at (0, r) with x = 1 next, yields at
most 2r + 1 offsets, and x and y never decrease. -/
def Obligations.CircleWalkEndsAtTheTop : Prop :=
  ∀ r : Nat, Fits8 r →
    (circleWalk r).getLast? = some (0, (r : Int)) ∧
      ((circleStates r).getLast?.map fun q => (circleStep q).x) = some 1 ∧
        (circleWalk r).length ≤ 2 * r + 1 ∧
          (circleWalk r).Pairwise fun p q => p.1 ≤ q.1 ∧ p.2 ≤ q.2

/-- 41_rasterizers.md R113: DRAW_CIRCLE paints exactly the in-range points at an offset (±x, ±y) of the walk from an in-range
centre; with the centre out of range it changes nothing. -/
def Obligations.DrawCirclePaintsTheFourPointsOfEachStep : Prop :=
  SelectedBy 0xFF7F000000FFFFFF#64 0x2300000000000000#64
      (fun w => .drawCircle (aField w).toNat (bField w).toNat (cField w).toNat (Colour.ofBit (kField w))) ∧
    ∀ (s : State) (cx cy r : Nat) (c : Colour),
      (cx < s.cfg.width ∧ cy < s.cfg.height →
          ∃ t, exec (.drawCircle cx cy r c) s = .next t ∧ PaintedExactly s t (OnCircle cx cy r) c) ∧
        (cx ≥ s.cfg.width ∨ cy ≥ s.cfg.height → exec (.drawCircle cx cy r c) s = .next s)

/-- 41_rasterizers.md R114: before clipping, the multiset of DRAW_CIRCLE's offsets from the centre is closed under both
sign changes. -/
def Obligations.CircleOutlineIsSymmetric : Prop :=
  ∀ cx cy r : Nat,
    ((circleOutline cx cy r).map fun p => (2 * (cx : Int) - p.1, p.2)).Perm (circleOutline cx cy r) ∧
      ((circleOutline cx cy r).map fun p => (p.1, 2 * (cy : Int) - p.2)).Perm (circleOutline cx cy r)

/-- 41_rasterizers.md R115: FILL_CIRCLE paints exactly the in-range points of the two spans of each step from an in-range
centre; with the centre out of range it changes nothing. -/
def Obligations.FillCirclePaintsTheSpansOfEachStep : Prop :=
  SelectedBy 0xFF7F000000FFFFFF#64 0x2400000000000000#64
      (fun w => .fillCircle (aField w).toNat (bField w).toNat (cField w).toNat (Colour.ofBit (kField w))) ∧
    ∀ (s : State) (cx cy r : Nat) (c : Colour),
      (cx < s.cfg.width ∧ cy < s.cfg.height →
          ∃ t, exec (.fillCircle cx cy r c) s = .next t ∧ PaintedExactly s t (InDisc cx cy r) c) ∧
        (cx ≥ s.cfg.width ∨ cy ≥ s.cfg.height → exec (.fillCircle cx cy r c) s = .next s)

/-- 41_rasterizers.md R116: FILL_CIRCLE's set contains DRAW_CIRCLE's, and equals the union of the full boxes of the walk's
steps. -/
def Obligations.DiscIsTheUnionOfTheStepBoxes : Prop :=
  ∀ cx cy r : Nat,
    (∀ p, OnCircle cx cy r p → InDisc cx cy r p) ∧
      ∀ p : Nat × Nat, InDisc cx cy r p ↔ ∃ q ∈ circleWalk r, gap p.1 cx ≤ -q.1 ∧ gap p.2 cy ≤ q.2

/-! ## Transform commands -/

/-- 42_transforms.md R123, R124, R125: the cursor SET_CURSOR stores, as signed integers, through the rotation in force;
nothing else changes. -/
def Obligations.SetCursorStoresTheTransformedPoint : Prop :=
  SelectedBy 0xFFFF0000FFFFFFFF#64 0x3000000000000000#64 (fun w => .setCursor (aField w).toNat (bField w).toNat) ∧
    ∀ (s : State) (x y : Nat), Fits8 x → Fits8 y →
      ∃ t, exec (.setCursor x y) s = .next t ∧ t = { s with cursorX := t.cursorX, cursorY := t.cursorY } ∧
        (s.rotation = .rotated180 →
            t.cursorX.toInt = (s.cfg.width : Int) - x ∧ t.cursorY.toInt = (s.cfg.height : Int) - 1 - y) ∧
          (s.rotation = .normal →
            t.cursorX.toInt = (x : Int) - s.cfg.xOffset.toNat ∧ t.cursorY.toInt = (y : Int) - s.cfg.yOffset.toNat)

/-- 42_transforms.md R126: RESULT after GET_CURSOR is {CURSOR_Y, CURSOR_X}; nothing else changes. -/
def Obligations.GetCursorReportsTheCursor : Prop :=
  SelectedBy 0xFFFFFFFFFFFFFFFF#64 0x3100000000000000#64 (fun _ => .getCursor) ∧
    ∀ s : State,
      ∃ t, exec .getCursor s = .next t ∧ t = { s with result := t.result } ∧
        t.result.extractLsb' 16 16 = s.cursorY ∧ t.result.extractLsb' 0 16 = s.cursorX

/-- 42_transforms.md R129, R130: SET_ROTATED writes only ROTATION, to the operand, and does not move the stored cursor; a
value of E other than 0 or 1 is a set reserved bit; STATUS.ROTATED follows. -/
def Obligations.SetRotatedWritesOnlyRotation : Prop :=
  SelectedBy 0xFFFFFFFFFFFFFFFE#64 0x3200000000000000#64 (fun w => .setRotated (flagOf (eField w))) ∧
    (∀ w : Word64, opField w = 0x32#8 → 1 < (eField w).toNat → decode w = .error .rsvNonzero) ∧
      ∀ s : State,
        exec (.setRotated true) s = .next { s with rotation := .rotated180 } ∧
          exec (.setRotated false) s = .next { s with rotation := .normal } ∧
            s.status.getLsbD 3 = decide (s.rotation = .rotated180)

/-- 42_transforms.md R131: RESULT after GET_ROTATED is 1 or 0; nothing else changes. -/
def Obligations.GetRotatedReportsTheRotation : Prop :=
  SelectedBy 0xFFFFFFFFFFFFFFFF#64 0x3300000000000000#64 (fun _ => .getRotated) ∧
    ∀ s : State, exec .getRotated s = .next { s with result := if s.rotation = .rotated180 then 1#32 else 0#32 }

/-! ## Sequencer commands -/

/-- 43_sequencer.md R136, R137, R139, R140, R148: INIT binds the transport, emits the reset sequence (SPI only) and one
message for each configuration byte if a transport is bound, and leaves PSTATE where the unaccepted messages put it;
framebuffer, cursor and everything else unchanged. -/
def Obligations.InitEmitsBothSequences : Prop :=
  SelectedBy 0xFFFFFFFFFFFFFFFE#64 0x4000000000000000#64 (fun w => .init (flagOf (eField w))) ∧
    ∀ (s : State) (bind : Bool),
      let resetMsgs : List Message :=
        if s.cfg.transport = .spi then
          [⟨.reset, [0x00#8]⟩, ⟨.delay, [10#8]⟩, ⟨.reset, [0x01#8]⟩, ⟨.delay, [10#8]⟩]
        else []
      let q : List Tagged :=
        if bind then
          s.outq ++ resetMsgs.map (Tagged.mk .reset) ++
            s.cfg.initSeq.map (fun b => Tagged.mk .config ⟨.writeCommand, [b]⟩)
        else s.outq
      exec (.init bind) s = .next
        { s with
          txBound := bind
          outq := q
          pstate :=
            if q.any (fun m => m.phase = .reset) then .resetting
            else if q.any (fun m => m.phase = .config) then .configuring
            else .ready }

/-- 43_sequencer.md R142: FLUSH before Ready under the policy Reject raises NOT_READY: it records code 3 if ERR is 0,
empties PENDING (60_exceptions.md R155) and changes nothing else. FLUSH otherwise emits, for each page in order, the page
command, the two column commands and the page's bytes as they are now (R138, R144), if a transport is bound; nothing else
changes. -/
def Obligations.FlushEmitsFourMessagesAPage : Prop :=
  SelectedBy 0xFFFFFFFFFFFFFFFF#64 0x4100000000000000#64 (fun _ => .flush) ∧
    ∀ s : State,
      (s.pstate ≠ .ready ∧ s.cfg.flushBeforeReady = .reject →
          exec .flush s = .next { s with err := if s.err = 0#4 then 3#4 else s.err, pending := none }) ∧
        (s.pstate = .ready ∨ s.cfg.flushBeforeReady = .emit →
          exec .flush s = .next
            { s with
              outq :=
                if s.txBound then
                  s.outq ++ (List.range (s.cfg.height / 8)).flatMap (fun p =>
                    [Tagged.mk .page ⟨.writeCommand, [BitVec.ofNat 8 (0xB0 + p)]⟩,
                      Tagged.mk .page ⟨.writeCommand, [BitVec.ofNat 8 (s.cfg.colStart.toNat % 16)]⟩,
                      Tagged.mk .page ⟨.writeCommand, [BitVec.ofNat 8 (0x10 + s.cfg.colStart.toNat / 16)]⟩,
                      Tagged.mk .page
                        ⟨.writeData, (List.range s.cfg.width).map fun k => s.fbRead (p * s.cfg.width + k)⟩])
                else s.outq })

/-- 43_sequencer.md R143: what a FLUSH emits is 4 * PAGES messages: 3 * PAGES one-byte WriteCommand messages and PAGES
WriteData messages of exactly WIDTH bytes, which together are the framebuffer in index order. -/
def Obligations.FlushSendsTheWholeFramebuffer : Prop :=
  ∀ s : State, s.pstate = .ready → s.txBound = true →
    ∃ (t : State) (ms : List Message), exec .flush s = .next t ∧ t.outq = s.outq ++ ms.map (Tagged.mk .page) ∧
      ms.length = 4 * s.cfg.pages ∧
        (ms.filter fun m => m.kind = .writeCommand ∧ m.payload.length = 1).length = 3 * s.cfg.pages ∧
          (ms.filter fun m => m.kind = .writeData ∧ m.payload.length = s.cfg.width).length = s.cfg.pages ∧
            ((ms.filter fun m => m.kind = .writeData).flatMap fun m => m.payload) =
              (List.range s.cfg.fbLen).map s.fbRead

/-! ## Whole-machine rules about commands -/

/-- 10_state.md R41: a command changes at most the state that its row of the access matrix allows, and FLUSH besides
records its error (60_exceptions.md R155). In the FB column, "RW (bits)", only the bits of the in-range pixels that the
command draws can change. -/
def Obligations.CommandsWriteOnlyTheirRowOfTheMatrix : Prop :=
  ∀ (i : Instr) (s t : State), exec i s = .next t →
    ChangedOnly (writesOf i) s t ∧
      ∀ n b, b < 8 → (t.fbRead n).getLsbD b ≠ (s.fbRead n).getLsbD b → InSet s.cfg (drawnPixels s i) n b

/-- 42_transforms.md R128, 10_state.md R30, R41: no command's effect on the framebuffer, and no READ_PIXEL, depends on the
rotation, the offsets, the cursor, the protocol state, the error code, the last result or the queue. -/
def Obligations.DrawingIgnoresTheDisplayState : Prop :=
  ∀ (i : Instr) (s t : State) (xo yo : BitVec 8) (cx cy : BitVec 16) (r : Rotation) (p : PState) (tx : Bool)
    (e : BitVec 4) (v : Word32) (q : List Tagged),
    exec i s = .next t →
      ∃ t', exec i
          { s with
            cfg := { s.cfg with xOffset := xo, yOffset := yo }
            cursorX := cx, cursorY := cy, rotation := r, pstate := p, txBound := tx, err := e, result := v, outq := q }
            = .next t' ∧
          t'.fb = t.fb ∧ ∀ x y, i = .readPixel x y → t'.result = t.result

/-- 43_sequencer.md R149, R141: every command but INIT and FLUSH executes the same way in every PSTATE, and INIT starts from
any PSTATE in the same way. -/
def Obligations.OnlyFlushReadsTheProtocolState : Prop :=
  ∀ (i : Instr) (s t : State) (p : PState), exec i s = .next t →
    ((i ≠ .flush ∧ ∀ b, i ≠ .init b) → exec i { s with pstate := p } = .next { t with pstate := p }) ∧
      ((∃ b, i = .init b) → exec i { s with pstate := p } = .next t)

/-! ## The invariant and the whole machine -/

/-- The invariant holds after reset, whatever the parameters. -/
def Obligations.ResetMeetsTheInvariant : Prop := ∀ cfg : Config, Inv (State.resetWith cfg)

/-- From every state that meets it, every step keeps the invariant: memories canonical and inside their address spaces
(20_memory.md R46, R47), the submit handshake (10_state.md R25, R36), PSTATE in agreement with the unaccepted messages
(43_sequencer.md R140), cursors in [-255, 255] (42_transforms.md R125), ERR an assigned code (60_exceptions.md R154), and
messages of the right form (43_sequencer.md R133, R135). -/
def Obligations.EveryStepKeepsTheInvariant : Prop := ∀ s t : State, Inv s → step s = .next t → Inv t

/-- 20_memory.md R61, 43_sequencer.md R142 (corner case): once BUSY reads 0, every submitted command is complete: nothing is
pending, every message is accepted, and PSTATE is Uninitialized or Ready. -/
def Obligations.NotBusyMeansEverythingIsComplete : Prop :=
  ∀ s : State, Inv s → s.busy = false →
    s.pending = none ∧ s.outq = [] ∧ (s.pstate = .uninitialized ∨ s.pstate = .ready)

/-- 60_exceptions.md R164, 44_control.md R151: once ERR is not 0 a step changes it only by executing a CLEAR_ERR or by the
block reset, and then to 0. -/
def Obligations.ErrorCodeIsSticky : Prop :=
  ∀ s t : State, step s = .next t → s.err ≠ 0#4 →
    t.err = s.err ∨
      t.err = 0#4 ∧
        (s.schedule.head? = some .blockReset ∨ ∃ w, s.pending = some w ∧ decode w = .ok .clearErr)

/-- 10_state.md R26, R30, R33, R35, R37: a step changes the framebuffer, the cursor, the rotation, TX_BOUND or RESULT only by
executing a command whose row of the access matrix writes it, or by the block reset. -/
def Obligations.OnlyTheirCommandsWriteTheRegisters : Prop :=
  ∀ s t : State, step s = .next t → s.schedule.head? ≠ some .blockReset →
    (t.fb ≠ s.fb → ∃ w i, s.pending = some w ∧ decode w = .ok i ∧ (writesOf i).fb = true) ∧
      (t.cursorX ≠ s.cursorX ∨ t.cursorY ≠ s.cursorY →
        ∃ w x y, s.pending = some w ∧ decode w = .ok (.setCursor x y)) ∧
        (t.rotation ≠ s.rotation → ∃ w b, s.pending = some w ∧ decode w = .ok (.setRotated b)) ∧
          (t.txBound ≠ s.txBound → ∃ w b, s.pending = some w ∧ decode w = .ok (.init b)) ∧
            (t.result ≠ s.result → ∃ w i, s.pending = some w ∧ decode w = .ok i ∧ (writesOf i).result = true)

/-- 10_state.md R31, 43_sequencer.md R140, R141: PSTATE moves only from Resetting to Configuring or Ready and from
Configuring to Ready, unless an INIT executes or the block is reset. -/
def Obligations.ProtocolStateMovesForward : Prop :=
  ∀ s t : State, step s = .next t → s.schedule.head? ≠ some .blockReset →
    (∀ w b, s.pending = some w → decode w ≠ .ok (.init b)) →
      t.pstate = s.pstate ∨ s.pstate = .resetting ∧ (t.pstate = .configuring ∨ t.pstate = .ready) ∨
        s.pstate = .configuring ∧ t.pstate = .ready

/-- 20_memory.md R60: no step but the block reset reorders, drops or changes a message: the sequence of emitted messages only
grows at its end. -/
def Obligations.OutputOrderIsPreserved : Prop :=
  ∀ s t : State, step s = .next t → s.schedule.head? ≠ some .blockReset →
    ∃ ms : List Message, t.emitted = s.emitted ++ ms

/-- 10_state.md R40, 70_reset_and_hazards.md R173, R176: the values after reset; every framebuffer byte is its own free draw
of epoch 0 (log entry 2). -/
def Obligations.ResetLeavesTheResetValues : Prop :=
  ∀ cfg : Config,
    let s := State.resetWith cfg
    s.cursorX = 0#16 ∧ s.cursorY = 0#16 ∧ s.rotation = .normal ∧ s.pstate = .uninitialized ∧ s.txBound = false ∧
      s.err = 0#4 ∧ s.busy = false ∧ s.pending = none ∧ s.cmd0 = 0#32 ∧ s.cmd1 = 0#32 ∧ s.result = 0#32 ∧
        s.outq = [] ∧ s.cfg = cfg ∧ ∀ i, s.fbRead i = Config.fbDraw 0 i

/-- 70_reset_and_hazards.md R173, R175: a block reset at any time gives the reset values, discards the pending command and
the queued messages, draws the framebuffer afresh, and leaves the source memory, a stuck host (log entry 18) and what the
adapter has accepted. -/
def Obligations.BlockResetAbandonsTheCommand : Prop :=
  ∀ (s : State) (rest : List Move), s.schedule = .blockReset :: rest →
    ∃ t, step s = .next t ∧
      t = { State.resetWith s.cfg with
        fbEpoch := s.fbEpoch + 1
        src := s.src
        commandCount := s.commandCount
        schedule := rest
        hostStuck := s.hostStuck
        hostReads := s.hostReads
        accepted := s.accepted } ∧
      ∀ i, t.fbRead i = Config.fbDraw (s.fbEpoch + 1) i

/-! ## The host and the adapter -/

/-- 10_state.md R22 to R29, 20_memory.md R56: an aligned 32-bit read in the window gives the register's value to the host
and has no side effect on the FBP, where the host is not stuck at an earlier access (log entry 10). -/
def Obligations.HostReadsTheRegisterWindow : Prop :=
  ∀ (s : State) (off : Nat) (rest : List Move), s.hostStuck = false → off < 32 → off % 4 = 0 →
    s.schedule = .host (.read (s.cfg.fbpBase + off) 32) :: rest →
      step s = .next
        { s with
          schedule := rest
          hostReads := s.hostReads ++
            [⟨off,
              if off = 0x00 then s.cmd0 else if off = 0x04 then s.cmd1 else if off = 0x08 then s.status
              else if off = 0x0C then s.result else if off = 0x10 then configWord s.cfg
              else if off = 0x14 then config2Word s.cfg else 0#32⟩] }

/-- 10_state.md R20, R25, R27, R28: the fields of STATUS, CONFIG and CONFIG2 at their bits, the reserved bits 0. PSTATE
reads as 0 for Uninitialized, 1 for Resetting, 2 for Configuring, 3 for Ready. -/
def Obligations.StatusAndConfigHaveTheirFields : Prop :=
  ∀ s : State,
    s.status.toNat =
        (if s.busy then 1 else 0) +
            2 * (match s.pstate with
              | .uninitialized => 0
              | .resetting => 1
              | .configuring => 2
              | .ready => 3) +
          (if s.rotation = .rotated180 then 8 else 0) + (if s.txBound then 16 else 0) + 256 * s.err.toNat ∧
      (configWord s.cfg).toNat =
          s.cfg.width + 256 * s.cfg.height + (if s.cfg.transport = .i2c then 65536 else 0) +
            (if s.cfg.flushBeforeReady = .emit then 131072 else 0) + 0x01000000 ∧
        (config2Word s.cfg).toNat = s.cfg.xOffset.toNat + 256 * s.cfg.yOffset.toNat + 65536 * s.cfg.colStart.toNat

/-- 10_state.md R22, R23, R24, R29, 60_exceptions.md R157: an aligned 32-bit write stores to CMD0; stores to CMD1 and submits
{v, CMD0}, or while BUSY = 1 drops the word and records code 4 if ERR is 0; and is ignored elsewhere. The host is not
stuck at an earlier access (log entry 10). -/
def Obligations.HostWritesCommandRegisters : Prop :=
  ∀ (s : State) (off : Nat) (v : Word32) (rest : List Move), s.hostStuck = false → off < 32 → off % 4 = 0 →
    s.schedule = .host (.write (s.cfg.fbpBase + off) 32 v) :: rest →
      (off = 0x00 → step s = .next { s with schedule := rest, cmd0 := v }) ∧
        (off = 0x04 → s.busy = false →
          step s = .next { s with schedule := rest, cmd1 := v, pending := some (v ++ s.cmd0), busy := true }) ∧
          (off = 0x04 → s.busy = true →
            step s = .next { s with schedule := rest, cmd1 := v, err := if s.err = 0#4 then 4#4 else s.err }) ∧
            (0x08 ≤ off → step s = .next { s with schedule := rest })

/-- 20_memory.md R53, R48, 60_exceptions.md R172: an access of another width, or at an offset not a multiple of 4, has no
effect but that the host is stuck; so has an access outside the window (log entry 10). A stuck host moves no more and
stays stuck; the other agents go on (StepExecutesThePendingCommand, AdapterAcceptsTheHead and BlockResetAbandonsTheCommand
ask nothing of the host), and only when they have nothing left to do, and no move is scheduled, there is no step. -/
def Obligations.UnadmittedHostAccessIsStuck : Prop :=
  (∀ (s : State) (addr bits : Nat) (v : Word32) (rest : List Move), s.hostStuck = false →
      s.schedule = .host (.read addr bits) :: rest ∨ s.schedule = .host (.write addr bits v) :: rest →
        (s.cfg.fbpBase ≤ addr ∧ addr < s.cfg.fbpBase + 32 → bits ≠ 32 ∨ (addr - s.cfg.fbpBase) % 4 ≠ 0 →
            step s = .next { s with schedule := rest, hostStuck := true }) ∧
          (addr < s.cfg.fbpBase ∨ s.cfg.fbpBase + 32 ≤ addr →
            step s = .next { s with schedule := rest, hostStuck := true })) ∧
    (∀ (s : State) (a : HostAccess) (w : Word64) (rest : List Move), s.hostStuck = true →
        s.schedule = .host a :: rest ∨ s.schedule = .issue w :: rest ∨ s.schedule = .collect :: rest →
          step s = .next { s with schedule := rest }) ∧
      (∀ s t : State, s.hostStuck = true → step s = .next t → t.hostStuck = true) ∧
        ∀ s : State, s.hostStuck = true → s.schedule = [] →
          (Idle s → step s = .fault .hostStuck) ∧ (¬Idle s → ∃ t, step s = .next t)

/-- 30_encoding.md R88: with BUSY = 0 a host that issues `w` by the protocol has it submitted, unchanged, with no error,
three steps later; with BUSY = 1 it has polled STATUS and polls again. To read a result, it polls in the same way and
then, with BUSY = 0, reads RESULT, two steps later. -/
def Obligations.ProtocolSubmitsTheWord : Prop :=
  (∀ (s : State) (w : Word64) (rest : List Move), s.hostStuck = false → s.schedule = .issue w :: rest →
      (s.busy = false →
          core.run 3 s = .next
            { s with
              schedule := rest
              hostReads := s.hostReads ++ [⟨0x08, s.status⟩]
              cmd0 := w.extractLsb' 0 32
              cmd1 := w.extractLsb' 32 32
              pending := some w
              busy := true }) ∧
        (s.busy = true →
          step s = .next
            { s with
              schedule := .progress :: .issue w :: rest
              hostReads := s.hostReads ++ [⟨0x08, s.status⟩] })) ∧
    ∀ (s : State) (rest : List Move), s.hostStuck = false → s.schedule = .collect :: rest →
      (s.busy = false →
          core.run 2 s = .next
            { s with
              schedule := rest
              hostReads := s.hostReads ++ [⟨0x08, s.status⟩, ⟨0x0C, s.result⟩] }) ∧
        (s.busy = true →
          step s = .next
            { s with
              schedule := .progress :: .collect :: rest
              hostReads := s.hostReads ++ [⟨0x08, s.status⟩] })

/-- 30_encoding.md R88, 60_exceptions.md R157: a host that follows the protocol never causes an overrun, whatever the other
agents do: every step keeps it following, and none sets ERR to 4. -/
def Obligations.PollingHostNeverOverruns : Prop :=
  ∀ s t : State, HandshakeOk s → PollingHost s → step s = .next t →
    PollingHost t ∧ HandshakeOk t ∧ (t.err = 4#4 → s.err = 4#4)

/-- 10_state.md R36, 70_reset_and_hazards.md R186: with the engine and the adapter left to make progress, BUSY clears, within
the number of messages queued or to be emitted plus two moves. -/
def Obligations.BusyClearsWithinTheMessagesToSend : Prop :=
  ∀ s : State, HandshakeOk s → s.schedule = [] →
    ∃ n t, n ≤ s.outq.length + max (4 * s.cfg.pages) (4 + s.cfg.initSeq.length) + 2 ∧ core.run n s = .next t ∧ Idle t

/-- 43_sequencer.md R134, R140, R146: the adapter takes the head of OUTQ, PSTATE advances when the last message of its phase
is gone, BUSY falls with the last message (log entry 7), and the outcome of the bus transfer changes no FBP state. -/
def Obligations.AdapterAcceptsTheHead : Prop :=
  ∀ (s : State) (ok : Bool) (m : Tagged) (q : List Tagged) (rest : List Move),
    s.schedule = .adapter ok :: rest → s.outq = m :: q →
      step s = .next
        { s with
          schedule := rest
          outq := q
          accepted := s.accepted ++ [⟨m.msg, ok⟩]
          busy := if q = [] ∧ s.pending = none then false else s.busy
          pstate :=
            if s.pstate = .resetting ∧ ¬∃ n ∈ q, n.phase = .reset then
              (if ∃ n ∈ q, n.phase = .config then .configuring else .ready)
            else if s.pstate = .configuring ∧ ¬∃ n ∈ q, n.phase = .config then .ready
            else s.pstate }

/-- 70_reset_and_hazards.md R180, 20_memory.md R61: a read of RESULT with BUSY = 1 while a command is submitted gives the
old value or the new one, and both are admitted: before the engine's move the host reads the old one, after it the new
one, and BUSY is 1 in the state in which it reads, either way. Which one is the order of the host's and the engine's moves
(log entries 6 and 8). -/
def Obligations.ResultReadWhileBusyIsOldOrNew : Prop :=
  ∀ (s : State) (w : Word64) (i : Instr) (t : State),
    HandshakeOk s → s.hostStuck = false → s.pending = some w → decode w = .ok i → exec i s = .next t →
      let readResult : Move := .host (.read (s.cfg.fbpBase + 0x0C) 32)
      (s.busy = true ∧
          ∃ u v, step { s with schedule := [readResult, .engine] } = .next u ∧
            u.hostReads = s.hostReads ++ [⟨0x0C, s.result⟩] ∧ step u = .next v ∧ v.result = t.result) ∧
        ∃ u v, step { s with schedule := [.engine, readResult] } = .next u ∧ u.busy = true ∧ u.result = t.result ∧
          step u = .next v ∧ v.hostReads = s.hostReads ++ [⟨0x0C, t.result⟩]

/-! ## Configuration and assembler -/

/-- 00_scope.md R7, 60_exceptions.md R160: exactly the configurations of legal parameters are built, with those parameters;
every other is refused. -/
def Obligations.OnlyLegalConfigurationsAreBuilt : Prop :=
  ∀ r : RawConfig,
    ((∃ c, r.build = .ok c) ↔
        (1 ≤ r.width ∧ r.width ≤ 128) ∧ (r.height = 32 ∨ r.height = 64 ∨ r.height = 128) ∧ r.xOffset < 256 ∧
          r.yOffset < 256 ∧ r.i2cAddr < 128 ∧ r.colStart < 128 ∧ r.resetDelayMs = 10) ∧
      ∀ c, r.build = .ok c →
        c.width = r.width ∧ c.height = r.height ∧ c.xOffset.toNat = r.xOffset ∧ c.yOffset.toNat = r.yOffset ∧
          c.transport = r.transport ∧ c.i2cAddr.toNat = r.i2cAddr ∧ c.mirrorH = r.mirrorH ∧ c.mirrorV = r.mirrorV ∧
            c.invert = r.invert ∧ c.initSeq = r.initSeq ∧ c.colStart.toNat = r.colStart ∧
              c.flushBeforeReady = r.flushBeforeReady ∧ c.fbpBase = r.fbpBase

/-- 30_encoding.md R81 to R85: the pseudo-instructions CLEAR, CLR_PIXEL and INIT without operand expand to their commands,
SET_ROTATED without operand is an error, and the operations out of scope are refused by name. -/
def Obligations.PseudoInstructionsExpand : Prop :=
  assembleProgram ["CLEAR"] = .ok [0x1100000000000000#64] ∧
    (∀ x y : Nat, Fits8 x → Fits8 y → expand .clrPixel [.num x, .num y] = .ok [.setPixel x y .black]) ∧
      assembleLine "INIT" = .ok [.init true] ∧
        (∃ e, assembleLine "SET_ROTATED" = .error e) ∧
          ∀ n ∈ ["draw_arc", "write_char", "write_string", "write_symbol", "set_contrast"],
            assembleLine n = .error (.excluded n)

/-- 30_encoding.md R78: the assembler never truncates an operand. A command written with the operands of R79 is
assembled, unchanged, exactly if every operand fits its field, and is an error otherwise; so are CLR_PIXEL and a flag that
is neither 0 nor 1. A command assembled from any operands is the mnemonic's, with the numbers given, all of which fit
(INIT alone may leave its operand out, R83). The vertices of a polyline that do not fit are an error; those that fit are
PolylineJoinsConsecutiveVertices. -/
def Obligations.AssemblerNeverTruncates : Prop :=
  (∀ i : Instr, expand (.command i.opcode) i.asmOperands = if i.wellFormed then .ok [i] else .error .doesNotFit) ∧
    (∀ x y : Nat, expand .clrPixel [.num x, .num y] =
      if Fits8 x ∧ Fits8 y then .ok [.setPixel x y .black] else .error .doesNotFit) ∧
      (∀ n : Nat, 1 < n → expand (.command .setRotated) [.num n] = .error .doesNotFit ∧
        expand (.command .init) [.num n] = .error .doesNotFit) ∧
        (∀ (o : Opcode) (ops : List AsmOperand) (is : List Instr), expand (.command o) ops = .ok is →
          o = .init ∧ ops = [] ∧ is = [.init true] ∨
            ∃ i : Instr, is = [i] ∧ i.opcode = o ∧ i.wellFormed = true ∧
              i.asmOperands.flatMap AsmOperand.numbers = ops.flatMap AsmOperand.numbers) ∧
          (∀ (c : Colour) (vs : List (Nat × Nat)), (∃ v ∈ vs, ¬(Fits8 v.1 ∧ Fits8 v.2)) →
            expand .drawPolyline (.colour c :: vs.map fun v => .vertex v.1 v.2) = .error .doesNotFit) ∧
            ∀ (m : AsmMnemonic) (ops : List AsmOperand) (is : List Instr), expand m ops = .ok is →
              ∀ i ∈ is, i.wellFormed = true

/-- 30_encoding.md R86: DRAW_POLYLINE expands to one DRAW_LINE between every consecutive pair of vertices, in order; to no
command with fewer than two. The colour is written by name or as 0 or 1 (R78). -/
def Obligations.PolylineJoinsConsecutiveVertices : Prop :=
  ∀ (c : Colour) (o : AsmOperand) (vs : List (Nat × Nat)),
    o = .colour c ∨ o = .num (if c = .white then 1 else 0) → (∀ v ∈ vs, Fits8 v.1 ∧ Fits8 v.2) →
      expand .drawPolyline (o :: vs.map fun v => .vertex v.1 v.2) =
        .ok ((vs.zip vs.tail).map fun e => .drawLine e.1.1 e.1.2 e.2.1 e.2.2 c)
end

