-- ==== Sys2Proof/Laws/Decode.lean ====
section
/-! SUPPORT. The fields of a packed word are what was packed (30_encoding.md R68), a word is its fields, the opcode map is
one-to-one (R72), and the must-be-zero test reads field by field (R73). -/

namespace Sys2Proof

/-- `RSV`, bits 54:48 (30_encoding.md R68). -/
def rsvField (w : Word64) : BitVec 7 := w.extractLsb' 48 7

/-- A word from all eight fields of the format. -/
def packAll (op : BitVec 8) (k : BitVec 1) (rsv : BitVec 7) (a b c d : BitVec 8) (e : BitVec 16) : Word64 :=
  op ++ k ++ rsv ++ a ++ b ++ c ++ d ++ e

theorem packC64_eq (op : BitVec 8) (k : BitVec 1) (a b c d : BitVec 8) (e : BitVec 16) :
    packC64 op k a b c d e = packAll op k 0#7 a b c d e := rfl

section
variable (op : BitVec 8) (k : BitVec 1) (rsv : BitVec 7) (a b c d : BitVec 8) (e : BitVec 16)

@[simp] theorem opField_packAll : opField (packAll op k rsv a b c d e) = op := by
  simp only [opField, packAll]
  repeat rw [BitVec.extractLsb'_append_eq_of_le (by decide)]
  simp

@[simp] theorem kField_packAll : kField (packAll op k rsv a b c d e) = k := by
  simp only [kField, packAll]
  repeat rw [BitVec.extractLsb'_append_eq_of_le (by decide)]
  rw [BitVec.extractLsb'_append_eq_of_add_le (by decide)]
  simp

@[simp] theorem rsvField_packAll : rsvField (packAll op k rsv a b c d e) = rsv := by
  simp only [rsvField, packAll]
  repeat rw [BitVec.extractLsb'_append_eq_of_le (by decide)]
  rw [BitVec.extractLsb'_append_eq_of_add_le (by decide)]
  simp

@[simp] theorem aField_packAll : aField (packAll op k rsv a b c d e) = a := by
  simp only [aField, packAll]
  repeat rw [BitVec.extractLsb'_append_eq_of_le (by decide)]
  rw [BitVec.extractLsb'_append_eq_of_add_le (by decide)]
  simp

@[simp] theorem bField_packAll : bField (packAll op k rsv a b c d e) = b := by
  simp only [bField, packAll]
  repeat rw [BitVec.extractLsb'_append_eq_of_le (by decide)]
  rw [BitVec.extractLsb'_append_eq_of_add_le (by decide)]
  simp

@[simp] theorem cField_packAll : cField (packAll op k rsv a b c d e) = c := by
  simp only [cField, packAll]
  repeat rw [BitVec.extractLsb'_append_eq_of_le (by decide)]
  rw [BitVec.extractLsb'_append_eq_of_add_le (by decide)]
  simp

@[simp] theorem dField_packAll : dField (packAll op k rsv a b c d e) = d := by
  simp only [dField, packAll]
  rw [BitVec.extractLsb'_append_eq_of_le (by decide), BitVec.extractLsb'_append_eq_of_add_le (by decide)]
  simp

@[simp] theorem eField_packAll : eField (packAll op k rsv a b c d e) = e := by
  simp only [eField, packAll]
  rw [BitVec.extractLsb'_append_eq_of_add_le (by decide)]
  simp

end

/-- A word is its eight fields. -/
theorem eq_packAll (w : Word64) :
    w = packAll (opField w) (kField w) (rsvField w) (aField w) (bField w) (cField w) (dField w) (eField w) := by
  apply BitVec.eq_of_getLsbD_eq
  intro i hi
  simp only [packAll, opField, kField, rsvField, aField, bField, cField, dField, eField, BitVec.getLsbD_append,
    BitVec.getLsbD_extractLsb']
  split_ifs <;> (rw [decide_eq_true (by omega), Bool.true_and]; congr 1; omega)

/-- Two words from fields meet field by field. -/
theorem packAll_and (op op' : BitVec 8) (k k' : BitVec 1) (rsv rsv' : BitVec 7) (a a' b b' c c' d d' : BitVec 8)
    (e e' : BitVec 16) :
    packAll op k rsv a b c d e &&& packAll op' k' rsv' a' b' c' d' e' =
      packAll (op &&& op') (k &&& k') (rsv &&& rsv') (a &&& a') (b &&& b') (c &&& c') (d &&& d') (e &&& e') := by
  refine BitVec.and_append.trans (congrArg (· ++ (e &&& e')) ?_)
  refine BitVec.and_append.trans (congrArg (· ++ (d &&& d')) ?_)
  refine BitVec.and_append.trans (congrArg (· ++ (c &&& c')) ?_)
  refine BitVec.and_append.trans (congrArg (· ++ (b &&& b')) ?_)
  refine BitVec.and_append.trans (congrArg (· ++ (a &&& a')) ?_)
  refine BitVec.and_append.trans (congrArg (· ++ (rsv &&& rsv')) ?_)
  exact BitVec.and_append

/-- A word from fields is zero exactly when every field is. -/
theorem packAll_eq_zero (op : BitVec 8) (k : BitVec 1) (rsv : BitVec 7) (a b c d : BitVec 8) (e : BitVec 16) :
    packAll op k rsv a b c d e = 0#64 ↔
      op = 0#8 ∧ k = 0#1 ∧ rsv = 0#7 ∧ a = 0#8 ∧ b = 0#8 ∧ c = 0#8 ∧ d = 0#8 ∧ e = 0#16 := by
  constructor
  · intro h
    refine ⟨?_, ?_, ?_, ?_, ?_, ?_, ?_, ?_⟩
    · rw [← opField_packAll op k rsv a b c d e, h]; rfl
    · rw [← kField_packAll op k rsv a b c d e, h]; rfl
    · rw [← rsvField_packAll op k rsv a b c d e, h]; rfl
    · rw [← aField_packAll op k rsv a b c d e, h]; rfl
    · rw [← bField_packAll op k rsv a b c d e, h]; rfl
    · rw [← cField_packAll op k rsv a b c d e, h]; rfl
    · rw [← dField_packAll op k rsv a b c d e, h]; rfl
    · rw [← eField_packAll op k rsv a b c d e, h]; rfl
  · rintro ⟨rfl, rfl, rfl, rfl, rfl, rfl, rfl, rfl⟩
    decide

/-- Which must-be-zero bits a row has in each field (30_encoding.md R73's table). -/
structure RsvFields where
  k : BitVec 1
  a : BitVec 8
  b : BitVec 8
  c : BitVec 8
  d : BitVec 8
  e : BitVec 16

/-- The must-be-zero bits of each row, field by field. -/
def Opcode.rsvFields : Opcode → RsvFields
  | .nop | .clearErr | .getCursor | .getRotated | .flush => ⟨1, 0xFF, 0xFF, 0xFF, 0xFF, 0xFFFF⟩
  | .setPixel => ⟨0, 0, 0, 0xFF, 0xFF, 0xFFFF⟩
  | .fill => ⟨0, 0xFF, 0xFF, 0xFF, 0xFF, 0xFFFF⟩
  | .readPixel | .setCursor => ⟨1, 0, 0, 0xFF, 0xFF, 0xFFFF⟩
  | .readByte => ⟨1, 0xFF, 0xFF, 0xFF, 0xFF, 0⟩
  | .drawBitmap => ⟨0, 0, 0, 0, 0, 0⟩
  | .drawLine | .drawRect | .fillRect => ⟨0, 0, 0, 0, 0, 0xFFFF⟩
  | .drawCircle | .fillCircle => ⟨0, 0, 0, 0, 0xFF, 0xFFFF⟩
  | .setRotated | .init => ⟨1, 0xFF, 0xFF, 0xFF, 0xFF, 0xFFFE⟩

theorem Opcode.rsvMask_eq (o : Opcode) :
    o.rsvMask = packAll 0#8 o.rsvFields.k 0x7F#7 o.rsvFields.a o.rsvFields.b o.rsvFields.c o.rsvFields.d o.rsvFields.e := by
  cases o <;> decide

/-- The must-be-zero test, field by field. -/
theorem and_rsvMask_eq_zero (w : Word64) (o : Opcode) :
    w &&& o.rsvMask = 0#64 ↔
      kField w &&& o.rsvFields.k = 0#1 ∧ rsvField w = 0#7 ∧ aField w &&& o.rsvFields.a = 0#8 ∧
        bField w &&& o.rsvFields.b = 0#8 ∧ cField w &&& o.rsvFields.c = 0#8 ∧ dField w &&& o.rsvFields.d = 0#8 ∧
          eField w &&& o.rsvFields.e = 0#16 := by
  have h7 : ∀ v : BitVec 7, v &&& 0x7F#7 = v := fun v => BitVec.and_allOnes
  conv_lhs => rw [eq_packAll w, o.rsvMask_eq, packAll_and, packAll_eq_zero, h7]
  simp

/-- The opcode map is one-to-one: a row is found from its own byte. -/
@[simp] theorem Opcode.ofByte_byte (o : Opcode) : Opcode.ofByte o.byte = some o := by cases o <;> decide

/-- A row found from a byte has that byte. -/
theorem Opcode.byte_of_ofByte {b : BitVec 8} {o : Opcode} (h : Opcode.ofByte b = some o) : o.byte = b := by
  simpa using List.find?_some h

/-- A byte is unassigned exactly when no row has it. -/
theorem Opcode.ofByte_eq_none {b : BitVec 8} : Opcode.ofByte b = none ↔ ∀ o : Opcode, o.byte ≠ b := by
  constructor
  · intro h o ho
    rw [← ho, Opcode.ofByte_byte] at h
    cases h
  · intro h
    cases hb : Opcode.ofByte b with
    | none => rfl
    | some o => exact absurd (Opcode.byte_of_ofByte hb) (h o)

/-- The opcode field of an encoded command is its row's byte. -/
@[simp] theorem opField_encode (i : Instr) : opField (encode i) = i.opcode.byte := by
  cases i <;> simp only [encode, packC64_eq, opField_packAll]

@[simp] theorem Colour.ofBit_toBit (c : Colour) : Colour.ofBit c.toBit = c := by cases c <;> decide

@[simp] theorem Colour.toBit_ofBit (b : BitVec 1) : (Colour.ofBit b).toBit = b := by
  have : b = 0#1 ∨ b = 1#1 := by
    have := b.isLt
    rcases Nat.lt_or_ge b.toNat 1 with h | h
    · exact .inl (BitVec.eq_of_toNat_eq (by simp; omega))
    · exact .inr (BitVec.eq_of_toNat_eq (by simp; omega))
  rcases this with rfl | rfl <;> decide

@[simp] theorem flagOf_flagField (b : Bool) : flagOf (flagField b) = b := by cases b <;> decide

end Sys2Proof
end

