-- ==== Sys2Proof/Laws/Mem.lean ====
section
/-! SUPPORT. The laws of memory: a read after a write to the same place gives the value written, a write leaves every
other place alone, and every memory operation keeps the canonical form. -/

namespace Sys2Proof.Machine

@[simp] theorem Mem.find_write_same (m : Mem) (a : Nat) (v : Byte) : (Mem.write m a v).find a = some v := by
  induction m with
  | nil => simp [Mem.write, Mem.find]
  | cons c m ih =>
    unfold Mem.write
    split_ifs with h1 h2
    · simp [Mem.find]
    · simp [Mem.find]
    · simpa [Mem.find, h2] using ih

theorem Mem.find_write_other (m : Mem) {a b : Nat} (v : Byte) (h : b ≠ a) : (Mem.write m a v).find b = m.find b := by
  induction m with
  | nil => simp [Mem.write, Mem.find, h.symm]
  | cons c m ih =>
    unfold Mem.write
    split_ifs with h1 h2
    · simp [Mem.find, h.symm]
    · simp [Mem.find, h.symm, h2]
    · simp only [Mem.find, ih]

@[simp] theorem Mem.read_write_same (draw : Nat → Byte) (m : Mem) (a : Nat) (v : Byte) :
    Mem.read draw (Mem.write m a v) a = v := by simp [Mem.read]

theorem Mem.read_write_other (draw : Nat → Byte) (m : Mem) {a b : Nat} (v : Byte) (h : b ≠ a) :
    Mem.read draw (Mem.write m a v) b = Mem.read draw m b := by simp [Mem.read, Mem.find_write_other m v h]

/-- A write lists the written cell and keeps the others. -/
theorem Mem.mem_write {m : Mem} {a : Nat} {v : Byte} {c : Host.Cell} (h : c ∈ Mem.write m a v) : c = (a, v) ∨ c ∈ m := by
  induction m with
  | nil => simpa [Mem.write] using h
  | cons d m ih =>
    unfold Mem.write at h
    split_ifs at h with h1 h2
    · simpa using h
    · rcases List.mem_cons.1 h with h | h
      · exact .inl h
      · exact .inr (List.mem_cons_of_mem _ h)
    · rcases List.mem_cons.1 h with h | h
      · exact .inr (h ▸ List.mem_cons_self)
      · exact (ih h).imp_right (List.mem_cons_of_mem _)

/-- A write keeps the canonical form. -/
theorem Mem.Wf.write {m : Mem} (h : Mem.Wf m) (a : Nat) (v : Byte) : Mem.Wf (Mem.write m a v) := by
  induction m with
  | nil => simp [Mem.write]
  | cons c m ih =>
    obtain ⟨hc, hm⟩ := List.pairwise_cons.1 h
    unfold Mem.write
    split_ifs with h1 h2
    · refine List.pairwise_cons.2 ⟨fun d hd => ?_, h⟩
      rcases List.mem_cons.1 hd with rfl | hd
      · exact h1
      · exact h1.trans (hc d hd)
    · exact List.pairwise_cons.2 ⟨fun d hd => h2 ▸ hc d hd, hm⟩
    · refine List.pairwise_cons.2 ⟨fun d hd => ?_, ih hm⟩
      rcases Mem.mem_write hd with rfl | hd
      · simp only; omega
      · exact hc d hd

/-- A write below `n` keeps every address below `n`. -/
theorem Mem.Below.write {n : Nat} {m : Mem} (h : Mem.Below n m) {a : Nat} (ha : a < n) (v : Byte) :
    Mem.Below n (Mem.write m a v) := by
  intro c hc
  rcases Mem.mem_write hc with rfl | hc
  · exact ha
  · exact h c hc

/-- Writes folded over addresses: the last value written there, else as before. -/
theorem Mem.read_foldl_write (draw : Nat → Byte) (v : Byte) (as : List Nat) (m : Mem) (b : Nat) :
    Mem.read draw (as.foldl (fun m a => Mem.write m a v) m) b = if b ∈ as then v else Mem.read draw m b := by
  induction as generalizing m with
  | nil => simp
  | cons a as ih =>
    rw [List.foldl_cons, ih]
    by_cases hb : b ∈ as
    · simp [hb]
    · by_cases h : b = a
      · simp [h]
      · simp [hb, h, Mem.read_write_other]

theorem Mem.Wf.foldl_write {m : Mem} (h : Mem.Wf m) (v : Byte) (as : List Nat) :
    Mem.Wf (as.foldl (fun m a => Mem.write m a v) m) := by
  induction as generalizing m with
  | nil => exact h
  | cons a as ih => exact ih (h.write a v)

theorem Mem.Below.foldl_write {n : Nat} {m : Mem} (h : Mem.Below n m) (v : Byte) {as : List Nat}
    (has : ∀ a ∈ as, a < n) : Mem.Below n (as.foldl (fun m a => Mem.write m a v) m) := by
  induction as generalizing m with
  | nil => exact h
  | cons a as ih =>
    exact ih (h.write (has a List.mem_cons_self) v) fun b hb => has b (List.mem_cons_of_mem _ hb)

end Sys2Proof.Machine
end

