-- ==== Sys2Proof/Laws/State.lean ====
section
/-! SUPPORT. What each named update of State does to each field, true by rfl, so that no proof unfolds a record update. -/

namespace Sys2Proof.Machine

section
variable (s : State)

/-! ### setResult -/

@[simp] theorem State.setResult_fb (v : Word32) : (s.setResult v).fb = s.fb := rfl
@[simp] theorem State.setResult_cursorX (v : Word32) : (s.setResult v).cursorX = s.cursorX := rfl
@[simp] theorem State.setResult_cursorY (v : Word32) : (s.setResult v).cursorY = s.cursorY := rfl
@[simp] theorem State.setResult_rotation (v : Word32) : (s.setResult v).rotation = s.rotation := rfl
@[simp] theorem State.setResult_pstate (v : Word32) : (s.setResult v).pstate = s.pstate := rfl
@[simp] theorem State.setResult_txBound (v : Word32) : (s.setResult v).txBound = s.txBound := rfl
@[simp] theorem State.setResult_err (v : Word32) : (s.setResult v).err = s.err := rfl
@[simp] theorem State.setResult_busy (v : Word32) : (s.setResult v).busy = s.busy := rfl
@[simp] theorem State.setResult_pending (v : Word32) : (s.setResult v).pending = s.pending := rfl
@[simp] theorem State.setResult_cmd0 (v : Word32) : (s.setResult v).cmd0 = s.cmd0 := rfl
@[simp] theorem State.setResult_cmd1 (v : Word32) : (s.setResult v).cmd1 = s.cmd1 := rfl
@[simp] theorem State.setResult_result (v : Word32) : (s.setResult v).result = v := rfl
@[simp] theorem State.setResult_outq (v : Word32) : (s.setResult v).outq = s.outq := rfl
@[simp] theorem State.setResult_src (v : Word32) : (s.setResult v).src = s.src := rfl
@[simp] theorem State.setResult_cfg (v : Word32) : (s.setResult v).cfg = s.cfg := rfl
@[simp] theorem State.setResult_fbEpoch (v : Word32) : (s.setResult v).fbEpoch = s.fbEpoch := rfl
@[simp] theorem State.setResult_commandCount (v : Word32) : (s.setResult v).commandCount = s.commandCount := rfl
@[simp] theorem State.setResult_srcRace (v : Word32) : (s.setResult v).srcRace = s.srcRace := rfl
@[simp] theorem State.setResult_schedule (v : Word32) : (s.setResult v).schedule = s.schedule := rfl
@[simp] theorem State.setResult_hostStuck (v : Word32) : (s.setResult v).hostStuck = s.hostStuck := rfl
@[simp] theorem State.setResult_hostReads (v : Word32) : (s.setResult v).hostReads = s.hostReads := rfl
@[simp] theorem State.setResult_accepted (v : Word32) : (s.setResult v).accepted = s.accepted := rfl

/-! ### setCursor -/

@[simp] theorem State.setCursor_fb (x y : Int) : (s.setCursor x y).fb = s.fb := rfl
@[simp] theorem State.setCursor_cursorX (x y : Int) : (s.setCursor x y).cursorX = BitVec.ofInt 16 x := rfl
@[simp] theorem State.setCursor_cursorY (x y : Int) : (s.setCursor x y).cursorY = BitVec.ofInt 16 y := rfl
@[simp] theorem State.setCursor_rotation (x y : Int) : (s.setCursor x y).rotation = s.rotation := rfl
@[simp] theorem State.setCursor_pstate (x y : Int) : (s.setCursor x y).pstate = s.pstate := rfl
@[simp] theorem State.setCursor_txBound (x y : Int) : (s.setCursor x y).txBound = s.txBound := rfl
@[simp] theorem State.setCursor_err (x y : Int) : (s.setCursor x y).err = s.err := rfl
@[simp] theorem State.setCursor_busy (x y : Int) : (s.setCursor x y).busy = s.busy := rfl
@[simp] theorem State.setCursor_pending (x y : Int) : (s.setCursor x y).pending = s.pending := rfl
@[simp] theorem State.setCursor_cmd0 (x y : Int) : (s.setCursor x y).cmd0 = s.cmd0 := rfl
@[simp] theorem State.setCursor_cmd1 (x y : Int) : (s.setCursor x y).cmd1 = s.cmd1 := rfl
@[simp] theorem State.setCursor_result (x y : Int) : (s.setCursor x y).result = s.result := rfl
@[simp] theorem State.setCursor_outq (x y : Int) : (s.setCursor x y).outq = s.outq := rfl
@[simp] theorem State.setCursor_src (x y : Int) : (s.setCursor x y).src = s.src := rfl
@[simp] theorem State.setCursor_cfg (x y : Int) : (s.setCursor x y).cfg = s.cfg := rfl
@[simp] theorem State.setCursor_fbEpoch (x y : Int) : (s.setCursor x y).fbEpoch = s.fbEpoch := rfl
@[simp] theorem State.setCursor_commandCount (x y : Int) : (s.setCursor x y).commandCount = s.commandCount := rfl
@[simp] theorem State.setCursor_srcRace (x y : Int) : (s.setCursor x y).srcRace = s.srcRace := rfl
@[simp] theorem State.setCursor_schedule (x y : Int) : (s.setCursor x y).schedule = s.schedule := rfl
@[simp] theorem State.setCursor_hostStuck (x y : Int) : (s.setCursor x y).hostStuck = s.hostStuck := rfl
@[simp] theorem State.setCursor_hostReads (x y : Int) : (s.setCursor x y).hostReads = s.hostReads := rfl
@[simp] theorem State.setCursor_accepted (x y : Int) : (s.setCursor x y).accepted = s.accepted := rfl

/-! ### setRotation -/

@[simp] theorem State.setRotation_fb (r : Rotation) : (s.setRotation r).fb = s.fb := rfl
@[simp] theorem State.setRotation_cursorX (r : Rotation) : (s.setRotation r).cursorX = s.cursorX := rfl
@[simp] theorem State.setRotation_cursorY (r : Rotation) : (s.setRotation r).cursorY = s.cursorY := rfl
@[simp] theorem State.setRotation_rotation (r : Rotation) : (s.setRotation r).rotation = r := rfl
@[simp] theorem State.setRotation_pstate (r : Rotation) : (s.setRotation r).pstate = s.pstate := rfl
@[simp] theorem State.setRotation_txBound (r : Rotation) : (s.setRotation r).txBound = s.txBound := rfl
@[simp] theorem State.setRotation_err (r : Rotation) : (s.setRotation r).err = s.err := rfl
@[simp] theorem State.setRotation_busy (r : Rotation) : (s.setRotation r).busy = s.busy := rfl
@[simp] theorem State.setRotation_pending (r : Rotation) : (s.setRotation r).pending = s.pending := rfl
@[simp] theorem State.setRotation_cmd0 (r : Rotation) : (s.setRotation r).cmd0 = s.cmd0 := rfl
@[simp] theorem State.setRotation_cmd1 (r : Rotation) : (s.setRotation r).cmd1 = s.cmd1 := rfl
@[simp] theorem State.setRotation_result (r : Rotation) : (s.setRotation r).result = s.result := rfl
@[simp] theorem State.setRotation_outq (r : Rotation) : (s.setRotation r).outq = s.outq := rfl
@[simp] theorem State.setRotation_src (r : Rotation) : (s.setRotation r).src = s.src := rfl
@[simp] theorem State.setRotation_cfg (r : Rotation) : (s.setRotation r).cfg = s.cfg := rfl
@[simp] theorem State.setRotation_fbEpoch (r : Rotation) : (s.setRotation r).fbEpoch = s.fbEpoch := rfl
@[simp] theorem State.setRotation_commandCount (r : Rotation) : (s.setRotation r).commandCount = s.commandCount := rfl
@[simp] theorem State.setRotation_srcRace (r : Rotation) : (s.setRotation r).srcRace = s.srcRace := rfl
@[simp] theorem State.setRotation_schedule (r : Rotation) : (s.setRotation r).schedule = s.schedule := rfl
@[simp] theorem State.setRotation_hostStuck (r : Rotation) : (s.setRotation r).hostStuck = s.hostStuck := rfl
@[simp] theorem State.setRotation_hostReads (r : Rotation) : (s.setRotation r).hostReads = s.hostReads := rfl
@[simp] theorem State.setRotation_accepted (r : Rotation) : (s.setRotation r).accepted = s.accepted := rfl

/-! ### clearErr -/

@[simp] theorem State.clearErr_fb : s.clearErr.fb = s.fb := rfl
@[simp] theorem State.clearErr_cursorX : s.clearErr.cursorX = s.cursorX := rfl
@[simp] theorem State.clearErr_cursorY : s.clearErr.cursorY = s.cursorY := rfl
@[simp] theorem State.clearErr_rotation : s.clearErr.rotation = s.rotation := rfl
@[simp] theorem State.clearErr_pstate : s.clearErr.pstate = s.pstate := rfl
@[simp] theorem State.clearErr_txBound : s.clearErr.txBound = s.txBound := rfl
@[simp] theorem State.clearErr_err : s.clearErr.err = 0#4 := rfl
@[simp] theorem State.clearErr_busy : s.clearErr.busy = s.busy := rfl
@[simp] theorem State.clearErr_pending : s.clearErr.pending = s.pending := rfl
@[simp] theorem State.clearErr_cmd0 : s.clearErr.cmd0 = s.cmd0 := rfl
@[simp] theorem State.clearErr_cmd1 : s.clearErr.cmd1 = s.cmd1 := rfl
@[simp] theorem State.clearErr_result : s.clearErr.result = s.result := rfl
@[simp] theorem State.clearErr_outq : s.clearErr.outq = s.outq := rfl
@[simp] theorem State.clearErr_src : s.clearErr.src = s.src := rfl
@[simp] theorem State.clearErr_cfg : s.clearErr.cfg = s.cfg := rfl
@[simp] theorem State.clearErr_fbEpoch : s.clearErr.fbEpoch = s.fbEpoch := rfl
@[simp] theorem State.clearErr_commandCount : s.clearErr.commandCount = s.commandCount := rfl
@[simp] theorem State.clearErr_srcRace : s.clearErr.srcRace = s.srcRace := rfl
@[simp] theorem State.clearErr_schedule : s.clearErr.schedule = s.schedule := rfl
@[simp] theorem State.clearErr_hostStuck : s.clearErr.hostStuck = s.hostStuck := rfl
@[simp] theorem State.clearErr_hostReads : s.clearErr.hostReads = s.hostReads := rfl
@[simp] theorem State.clearErr_accepted : s.clearErr.accepted = s.accepted := rfl

/-! ### raiseCmdError -/

@[simp] theorem State.raiseCmdError_fb (e : CmdError) : (s.raiseCmdError e).fb = s.fb := rfl
@[simp] theorem State.raiseCmdError_cursorX (e : CmdError) : (s.raiseCmdError e).cursorX = s.cursorX := rfl
@[simp] theorem State.raiseCmdError_cursorY (e : CmdError) : (s.raiseCmdError e).cursorY = s.cursorY := rfl
@[simp] theorem State.raiseCmdError_rotation (e : CmdError) : (s.raiseCmdError e).rotation = s.rotation := rfl
@[simp] theorem State.raiseCmdError_pstate (e : CmdError) : (s.raiseCmdError e).pstate = s.pstate := rfl
@[simp] theorem State.raiseCmdError_txBound (e : CmdError) : (s.raiseCmdError e).txBound = s.txBound := rfl
@[simp] theorem State.raiseCmdError_err (e : CmdError) : (s.raiseCmdError e).err = recordErr s.err e := rfl
@[simp] theorem State.raiseCmdError_busy (e : CmdError) : (s.raiseCmdError e).busy = s.busy := rfl
@[simp] theorem State.raiseCmdError_pending (e : CmdError) : (s.raiseCmdError e).pending = none := rfl
@[simp] theorem State.raiseCmdError_cmd0 (e : CmdError) : (s.raiseCmdError e).cmd0 = s.cmd0 := rfl
@[simp] theorem State.raiseCmdError_cmd1 (e : CmdError) : (s.raiseCmdError e).cmd1 = s.cmd1 := rfl
@[simp] theorem State.raiseCmdError_result (e : CmdError) : (s.raiseCmdError e).result = s.result := rfl
@[simp] theorem State.raiseCmdError_outq (e : CmdError) : (s.raiseCmdError e).outq = s.outq := rfl
@[simp] theorem State.raiseCmdError_src (e : CmdError) : (s.raiseCmdError e).src = s.src := rfl
@[simp] theorem State.raiseCmdError_cfg (e : CmdError) : (s.raiseCmdError e).cfg = s.cfg := rfl
@[simp] theorem State.raiseCmdError_fbEpoch (e : CmdError) : (s.raiseCmdError e).fbEpoch = s.fbEpoch := rfl
@[simp] theorem State.raiseCmdError_commandCount (e : CmdError) :
    (s.raiseCmdError e).commandCount =
      s.commandCount := rfl
@[simp] theorem State.raiseCmdError_srcRace (e : CmdError) : (s.raiseCmdError e).srcRace = s.srcRace := rfl
@[simp] theorem State.raiseCmdError_schedule (e : CmdError) : (s.raiseCmdError e).schedule = s.schedule := rfl
@[simp] theorem State.raiseCmdError_hostStuck (e : CmdError) : (s.raiseCmdError e).hostStuck = s.hostStuck := rfl
@[simp] theorem State.raiseCmdError_hostReads (e : CmdError) : (s.raiseCmdError e).hostReads = s.hostReads := rfl
@[simp] theorem State.raiseCmdError_accepted (e : CmdError) : (s.raiseCmdError e).accepted = s.accepted := rfl

/-! ### paint -/

@[simp] theorem State.paint_fb (pts : List (Int × Int)) (c : Colour) :
    (s.paint pts c).fb =
      pts.foldl (plotMem s.cfg (Config.fbDraw s.fbEpoch) c) s.fb := rfl
@[simp] theorem State.paint_cursorX (pts : List (Int × Int)) (c : Colour) : (s.paint pts c).cursorX = s.cursorX := rfl
@[simp] theorem State.paint_cursorY (pts : List (Int × Int)) (c : Colour) : (s.paint pts c).cursorY = s.cursorY := rfl
@[simp] theorem State.paint_rotation (pts : List (Int × Int)) (c : Colour) :
    (s.paint pts c).rotation =
      s.rotation := rfl
@[simp] theorem State.paint_pstate (pts : List (Int × Int)) (c : Colour) : (s.paint pts c).pstate = s.pstate := rfl
@[simp] theorem State.paint_txBound (pts : List (Int × Int)) (c : Colour) : (s.paint pts c).txBound = s.txBound := rfl
@[simp] theorem State.paint_err (pts : List (Int × Int)) (c : Colour) : (s.paint pts c).err = s.err := rfl
@[simp] theorem State.paint_busy (pts : List (Int × Int)) (c : Colour) : (s.paint pts c).busy = s.busy := rfl
@[simp] theorem State.paint_pending (pts : List (Int × Int)) (c : Colour) : (s.paint pts c).pending = s.pending := rfl
@[simp] theorem State.paint_cmd0 (pts : List (Int × Int)) (c : Colour) : (s.paint pts c).cmd0 = s.cmd0 := rfl
@[simp] theorem State.paint_cmd1 (pts : List (Int × Int)) (c : Colour) : (s.paint pts c).cmd1 = s.cmd1 := rfl
@[simp] theorem State.paint_result (pts : List (Int × Int)) (c : Colour) : (s.paint pts c).result = s.result := rfl
@[simp] theorem State.paint_outq (pts : List (Int × Int)) (c : Colour) : (s.paint pts c).outq = s.outq := rfl
@[simp] theorem State.paint_src (pts : List (Int × Int)) (c : Colour) : (s.paint pts c).src = s.src := rfl
@[simp] theorem State.paint_cfg (pts : List (Int × Int)) (c : Colour) : (s.paint pts c).cfg = s.cfg := rfl
@[simp] theorem State.paint_fbEpoch (pts : List (Int × Int)) (c : Colour) : (s.paint pts c).fbEpoch = s.fbEpoch := rfl
@[simp] theorem State.paint_commandCount (pts : List (Int × Int)) (c : Colour) :
    (s.paint pts c).commandCount =
      s.commandCount := rfl
@[simp] theorem State.paint_srcRace (pts : List (Int × Int)) (c : Colour) : (s.paint pts c).srcRace = s.srcRace := rfl
@[simp] theorem State.paint_schedule (pts : List (Int × Int)) (c : Colour) :
    (s.paint pts c).schedule =
      s.schedule := rfl
@[simp] theorem State.paint_hostStuck (pts : List (Int × Int)) (c : Colour) :
    (s.paint pts c).hostStuck =
      s.hostStuck := rfl
@[simp] theorem State.paint_hostReads (pts : List (Int × Int)) (c : Colour) :
    (s.paint pts c).hostReads =
      s.hostReads := rfl
@[simp] theorem State.paint_accepted (pts : List (Int × Int)) (c : Colour) :
    (s.paint pts c).accepted =
      s.accepted := rfl

/-! ### fillFb -/

@[simp] theorem State.fillFb_fb (v : Byte) :
    (s.fillFb v).fb =
      (List.range s.cfg.fbLen).foldl (fun m i => Mem.write m i v) s.fb := rfl
@[simp] theorem State.fillFb_cursorX (v : Byte) : (s.fillFb v).cursorX = s.cursorX := rfl
@[simp] theorem State.fillFb_cursorY (v : Byte) : (s.fillFb v).cursorY = s.cursorY := rfl
@[simp] theorem State.fillFb_rotation (v : Byte) : (s.fillFb v).rotation = s.rotation := rfl
@[simp] theorem State.fillFb_pstate (v : Byte) : (s.fillFb v).pstate = s.pstate := rfl
@[simp] theorem State.fillFb_txBound (v : Byte) : (s.fillFb v).txBound = s.txBound := rfl
@[simp] theorem State.fillFb_err (v : Byte) : (s.fillFb v).err = s.err := rfl
@[simp] theorem State.fillFb_busy (v : Byte) : (s.fillFb v).busy = s.busy := rfl
@[simp] theorem State.fillFb_pending (v : Byte) : (s.fillFb v).pending = s.pending := rfl
@[simp] theorem State.fillFb_cmd0 (v : Byte) : (s.fillFb v).cmd0 = s.cmd0 := rfl
@[simp] theorem State.fillFb_cmd1 (v : Byte) : (s.fillFb v).cmd1 = s.cmd1 := rfl
@[simp] theorem State.fillFb_result (v : Byte) : (s.fillFb v).result = s.result := rfl
@[simp] theorem State.fillFb_outq (v : Byte) : (s.fillFb v).outq = s.outq := rfl
@[simp] theorem State.fillFb_src (v : Byte) : (s.fillFb v).src = s.src := rfl
@[simp] theorem State.fillFb_cfg (v : Byte) : (s.fillFb v).cfg = s.cfg := rfl
@[simp] theorem State.fillFb_fbEpoch (v : Byte) : (s.fillFb v).fbEpoch = s.fbEpoch := rfl
@[simp] theorem State.fillFb_commandCount (v : Byte) : (s.fillFb v).commandCount = s.commandCount := rfl
@[simp] theorem State.fillFb_srcRace (v : Byte) : (s.fillFb v).srcRace = s.srcRace := rfl
@[simp] theorem State.fillFb_schedule (v : Byte) : (s.fillFb v).schedule = s.schedule := rfl
@[simp] theorem State.fillFb_hostStuck (v : Byte) : (s.fillFb v).hostStuck = s.hostStuck := rfl
@[simp] theorem State.fillFb_hostReads (v : Byte) : (s.fillFb v).hostReads = s.hostReads := rfl
@[simp] theorem State.fillFb_accepted (v : Byte) : (s.fillFb v).accepted = s.accepted := rfl

/-! ### advance -/

@[simp] theorem State.advance_fb : s.advance.fb = s.fb := rfl
@[simp] theorem State.advance_cursorX : s.advance.cursorX = s.cursorX := rfl
@[simp] theorem State.advance_cursorY : s.advance.cursorY = s.cursorY := rfl
@[simp] theorem State.advance_rotation : s.advance.rotation = s.rotation := rfl
@[simp] theorem State.advance_pstate :
    s.advance.pstate =
      leaveConfiguring (leaveResetting s.pstate s.outq) s.outq := rfl
@[simp] theorem State.advance_txBound : s.advance.txBound = s.txBound := rfl
@[simp] theorem State.advance_err : s.advance.err = s.err := rfl
@[simp] theorem State.advance_busy : s.advance.busy = s.busy := rfl
@[simp] theorem State.advance_pending : s.advance.pending = s.pending := rfl
@[simp] theorem State.advance_cmd0 : s.advance.cmd0 = s.cmd0 := rfl
@[simp] theorem State.advance_cmd1 : s.advance.cmd1 = s.cmd1 := rfl
@[simp] theorem State.advance_result : s.advance.result = s.result := rfl
@[simp] theorem State.advance_outq : s.advance.outq = s.outq := rfl
@[simp] theorem State.advance_src : s.advance.src = s.src := rfl
@[simp] theorem State.advance_cfg : s.advance.cfg = s.cfg := rfl
@[simp] theorem State.advance_fbEpoch : s.advance.fbEpoch = s.fbEpoch := rfl
@[simp] theorem State.advance_commandCount : s.advance.commandCount = s.commandCount := rfl
@[simp] theorem State.advance_srcRace : s.advance.srcRace = s.srcRace := rfl
@[simp] theorem State.advance_schedule : s.advance.schedule = s.schedule := rfl
@[simp] theorem State.advance_hostStuck : s.advance.hostStuck = s.hostStuck := rfl
@[simp] theorem State.advance_hostReads : s.advance.hostReads = s.hostReads := rfl
@[simp] theorem State.advance_accepted : s.advance.accepted = s.accepted := rfl

/-! ### retire -/

@[simp] theorem State.retire_fb : s.retire.fb = s.fb := rfl
@[simp] theorem State.retire_cursorX : s.retire.cursorX = s.cursorX := rfl
@[simp] theorem State.retire_cursorY : s.retire.cursorY = s.cursorY := rfl
@[simp] theorem State.retire_rotation : s.retire.rotation = s.rotation := rfl
@[simp] theorem State.retire_pstate : s.retire.pstate = s.pstate := rfl
@[simp] theorem State.retire_txBound : s.retire.txBound = s.txBound := rfl
@[simp] theorem State.retire_err : s.retire.err = s.err := rfl
@[simp] theorem State.retire_busy : s.retire.busy = s.busy := rfl
@[simp] theorem State.retire_pending : s.retire.pending = none := rfl
@[simp] theorem State.retire_cmd0 : s.retire.cmd0 = s.cmd0 := rfl
@[simp] theorem State.retire_cmd1 : s.retire.cmd1 = s.cmd1 := rfl
@[simp] theorem State.retire_result : s.retire.result = s.result := rfl
@[simp] theorem State.retire_outq : s.retire.outq = s.outq := rfl
@[simp] theorem State.retire_src : s.retire.src = s.src := rfl
@[simp] theorem State.retire_cfg : s.retire.cfg = s.cfg := rfl
@[simp] theorem State.retire_fbEpoch : s.retire.fbEpoch = s.fbEpoch := rfl
@[simp] theorem State.retire_commandCount : s.retire.commandCount = s.commandCount + 1 := rfl
@[simp] theorem State.retire_srcRace : s.retire.srcRace = [] := rfl
@[simp] theorem State.retire_schedule : s.retire.schedule = s.schedule := rfl
@[simp] theorem State.retire_hostStuck : s.retire.hostStuck = s.hostStuck := rfl
@[simp] theorem State.retire_hostReads : s.retire.hostReads = s.hostReads := rfl
@[simp] theorem State.retire_accepted : s.retire.accepted = s.accepted := rfl

/-! ### finish -/

@[simp] theorem State.finish_fb : s.finish.fb = s.fb := rfl
@[simp] theorem State.finish_cursorX : s.finish.cursorX = s.cursorX := rfl
@[simp] theorem State.finish_cursorY : s.finish.cursorY = s.cursorY := rfl
@[simp] theorem State.finish_rotation : s.finish.rotation = s.rotation := rfl
@[simp] theorem State.finish_pstate : s.finish.pstate = s.pstate := rfl
@[simp] theorem State.finish_txBound : s.finish.txBound = s.txBound := rfl
@[simp] theorem State.finish_err : s.finish.err = s.err := rfl
@[simp] theorem State.finish_busy : s.finish.busy = if s.outq.isEmpty then false else s.busy := rfl
@[simp] theorem State.finish_pending : s.finish.pending = s.pending := rfl
@[simp] theorem State.finish_cmd0 : s.finish.cmd0 = s.cmd0 := rfl
@[simp] theorem State.finish_cmd1 : s.finish.cmd1 = s.cmd1 := rfl
@[simp] theorem State.finish_result : s.finish.result = s.result := rfl
@[simp] theorem State.finish_outq : s.finish.outq = s.outq := rfl
@[simp] theorem State.finish_src : s.finish.src = s.src := rfl
@[simp] theorem State.finish_cfg : s.finish.cfg = s.cfg := rfl
@[simp] theorem State.finish_fbEpoch : s.finish.fbEpoch = s.fbEpoch := rfl
@[simp] theorem State.finish_commandCount : s.finish.commandCount = s.commandCount := rfl
@[simp] theorem State.finish_srcRace : s.finish.srcRace = s.srcRace := rfl
@[simp] theorem State.finish_schedule : s.finish.schedule = s.schedule := rfl
@[simp] theorem State.finish_hostStuck : s.finish.hostStuck = s.hostStuck := rfl
@[simp] theorem State.finish_hostReads : s.finish.hostReads = s.hostReads := rfl
@[simp] theorem State.finish_accepted : s.finish.accepted = s.accepted := rfl

/-! ### logRead -/

@[simp] theorem State.logRead_fb (o : Nat) (v : Word32) : (s.logRead o v).fb = s.fb := rfl
@[simp] theorem State.logRead_cursorX (o : Nat) (v : Word32) : (s.logRead o v).cursorX = s.cursorX := rfl
@[simp] theorem State.logRead_cursorY (o : Nat) (v : Word32) : (s.logRead o v).cursorY = s.cursorY := rfl
@[simp] theorem State.logRead_rotation (o : Nat) (v : Word32) : (s.logRead o v).rotation = s.rotation := rfl
@[simp] theorem State.logRead_pstate (o : Nat) (v : Word32) : (s.logRead o v).pstate = s.pstate := rfl
@[simp] theorem State.logRead_txBound (o : Nat) (v : Word32) : (s.logRead o v).txBound = s.txBound := rfl
@[simp] theorem State.logRead_err (o : Nat) (v : Word32) : (s.logRead o v).err = s.err := rfl
@[simp] theorem State.logRead_busy (o : Nat) (v : Word32) : (s.logRead o v).busy = s.busy := rfl
@[simp] theorem State.logRead_pending (o : Nat) (v : Word32) : (s.logRead o v).pending = s.pending := rfl
@[simp] theorem State.logRead_cmd0 (o : Nat) (v : Word32) : (s.logRead o v).cmd0 = s.cmd0 := rfl
@[simp] theorem State.logRead_cmd1 (o : Nat) (v : Word32) : (s.logRead o v).cmd1 = s.cmd1 := rfl
@[simp] theorem State.logRead_result (o : Nat) (v : Word32) : (s.logRead o v).result = s.result := rfl
@[simp] theorem State.logRead_outq (o : Nat) (v : Word32) : (s.logRead o v).outq = s.outq := rfl
@[simp] theorem State.logRead_src (o : Nat) (v : Word32) : (s.logRead o v).src = s.src := rfl
@[simp] theorem State.logRead_cfg (o : Nat) (v : Word32) : (s.logRead o v).cfg = s.cfg := rfl
@[simp] theorem State.logRead_fbEpoch (o : Nat) (v : Word32) : (s.logRead o v).fbEpoch = s.fbEpoch := rfl
@[simp] theorem State.logRead_commandCount (o : Nat) (v : Word32) : (s.logRead o v).commandCount = s.commandCount := rfl
@[simp] theorem State.logRead_srcRace (o : Nat) (v : Word32) : (s.logRead o v).srcRace = s.srcRace := rfl
@[simp] theorem State.logRead_schedule (o : Nat) (v : Word32) : (s.logRead o v).schedule = s.schedule := rfl
@[simp] theorem State.logRead_hostStuck (o : Nat) (v : Word32) : (s.logRead o v).hostStuck = s.hostStuck := rfl
@[simp] theorem State.logRead_hostReads (o : Nat) (v : Word32) :
    (s.logRead o v).hostReads =
      s.hostReads ++ [⟨o, v⟩] := rfl
@[simp] theorem State.logRead_accepted (o : Nat) (v : Word32) : (s.logRead o v).accepted = s.accepted := rfl

/-! ### srcWrite -/

@[simp] theorem State.srcWrite_fb (a : BitVec 16) (v : Byte) : (s.srcWrite a v).fb = s.fb := rfl
@[simp] theorem State.srcWrite_cursorX (a : BitVec 16) (v : Byte) : (s.srcWrite a v).cursorX = s.cursorX := rfl
@[simp] theorem State.srcWrite_cursorY (a : BitVec 16) (v : Byte) : (s.srcWrite a v).cursorY = s.cursorY := rfl
@[simp] theorem State.srcWrite_rotation (a : BitVec 16) (v : Byte) : (s.srcWrite a v).rotation = s.rotation := rfl
@[simp] theorem State.srcWrite_pstate (a : BitVec 16) (v : Byte) : (s.srcWrite a v).pstate = s.pstate := rfl
@[simp] theorem State.srcWrite_txBound (a : BitVec 16) (v : Byte) : (s.srcWrite a v).txBound = s.txBound := rfl
@[simp] theorem State.srcWrite_err (a : BitVec 16) (v : Byte) : (s.srcWrite a v).err = s.err := rfl
@[simp] theorem State.srcWrite_busy (a : BitVec 16) (v : Byte) : (s.srcWrite a v).busy = s.busy := rfl
@[simp] theorem State.srcWrite_pending (a : BitVec 16) (v : Byte) : (s.srcWrite a v).pending = s.pending := rfl
@[simp] theorem State.srcWrite_cmd0 (a : BitVec 16) (v : Byte) : (s.srcWrite a v).cmd0 = s.cmd0 := rfl
@[simp] theorem State.srcWrite_cmd1 (a : BitVec 16) (v : Byte) : (s.srcWrite a v).cmd1 = s.cmd1 := rfl
@[simp] theorem State.srcWrite_result (a : BitVec 16) (v : Byte) : (s.srcWrite a v).result = s.result := rfl
@[simp] theorem State.srcWrite_outq (a : BitVec 16) (v : Byte) : (s.srcWrite a v).outq = s.outq := rfl
@[simp] theorem State.srcWrite_src (a : BitVec 16) (v : Byte) : (s.srcWrite a v).src = Mem.write s.src a.toNat v := rfl
@[simp] theorem State.srcWrite_cfg (a : BitVec 16) (v : Byte) : (s.srcWrite a v).cfg = s.cfg := rfl
@[simp] theorem State.srcWrite_fbEpoch (a : BitVec 16) (v : Byte) : (s.srcWrite a v).fbEpoch = s.fbEpoch := rfl
@[simp] theorem State.srcWrite_commandCount (a : BitVec 16) (v : Byte) :
    (s.srcWrite a v).commandCount =
      s.commandCount := rfl
@[simp] theorem State.srcWrite_srcRace (a : BitVec 16) (v : Byte) :
    (s.srcWrite a v).srcRace =
      if s.pending.isSome then (a.toNat, Mem.read Config.srcContents s.src a.toNat) :: s.srcRace else s.srcRace := rfl
@[simp] theorem State.srcWrite_schedule (a : BitVec 16) (v : Byte) : (s.srcWrite a v).schedule = s.schedule := rfl
@[simp] theorem State.srcWrite_hostStuck (a : BitVec 16) (v : Byte) : (s.srcWrite a v).hostStuck = s.hostStuck := rfl
@[simp] theorem State.srcWrite_hostReads (a : BitVec 16) (v : Byte) : (s.srcWrite a v).hostReads = s.hostReads := rfl
@[simp] theorem State.srcWrite_accepted (a : BitVec 16) (v : Byte) : (s.srcWrite a v).accepted = s.accepted := rfl

/-! ### stopHost -/

@[simp] theorem State.stopHost_fb : s.stopHost.fb = s.fb := rfl
@[simp] theorem State.stopHost_cursorX : s.stopHost.cursorX = s.cursorX := rfl
@[simp] theorem State.stopHost_cursorY : s.stopHost.cursorY = s.cursorY := rfl
@[simp] theorem State.stopHost_rotation : s.stopHost.rotation = s.rotation := rfl
@[simp] theorem State.stopHost_pstate : s.stopHost.pstate = s.pstate := rfl
@[simp] theorem State.stopHost_txBound : s.stopHost.txBound = s.txBound := rfl
@[simp] theorem State.stopHost_err : s.stopHost.err = s.err := rfl
@[simp] theorem State.stopHost_busy : s.stopHost.busy = s.busy := rfl
@[simp] theorem State.stopHost_pending : s.stopHost.pending = s.pending := rfl
@[simp] theorem State.stopHost_cmd0 : s.stopHost.cmd0 = s.cmd0 := rfl
@[simp] theorem State.stopHost_cmd1 : s.stopHost.cmd1 = s.cmd1 := rfl
@[simp] theorem State.stopHost_result : s.stopHost.result = s.result := rfl
@[simp] theorem State.stopHost_outq : s.stopHost.outq = s.outq := rfl
@[simp] theorem State.stopHost_src : s.stopHost.src = s.src := rfl
@[simp] theorem State.stopHost_cfg : s.stopHost.cfg = s.cfg := rfl
@[simp] theorem State.stopHost_fbEpoch : s.stopHost.fbEpoch = s.fbEpoch := rfl
@[simp] theorem State.stopHost_commandCount : s.stopHost.commandCount = s.commandCount := rfl
@[simp] theorem State.stopHost_srcRace : s.stopHost.srcRace = s.srcRace := rfl
@[simp] theorem State.stopHost_schedule : s.stopHost.schedule = s.schedule := rfl
@[simp] theorem State.stopHost_hostStuck : s.stopHost.hostStuck = true := rfl
@[simp] theorem State.stopHost_hostReads : s.stopHost.hostReads = s.hostReads := rfl
@[simp] theorem State.stopHost_accepted : s.stopHost.accepted = s.accepted := rfl

/-! ### blockReset -/

@[simp] theorem State.blockReset_fb : s.blockReset.fb = [] := rfl
@[simp] theorem State.blockReset_cursorX : s.blockReset.cursorX = 0#16 := rfl
@[simp] theorem State.blockReset_cursorY : s.blockReset.cursorY = 0#16 := rfl
@[simp] theorem State.blockReset_rotation : s.blockReset.rotation = .normal := rfl
@[simp] theorem State.blockReset_pstate : s.blockReset.pstate = .uninitialized := rfl
@[simp] theorem State.blockReset_txBound : s.blockReset.txBound = false := rfl
@[simp] theorem State.blockReset_err : s.blockReset.err = 0#4 := rfl
@[simp] theorem State.blockReset_busy : s.blockReset.busy = false := rfl
@[simp] theorem State.blockReset_pending : s.blockReset.pending = none := rfl
@[simp] theorem State.blockReset_cmd0 : s.blockReset.cmd0 = 0#32 := rfl
@[simp] theorem State.blockReset_cmd1 : s.blockReset.cmd1 = 0#32 := rfl
@[simp] theorem State.blockReset_result : s.blockReset.result = 0#32 := rfl
@[simp] theorem State.blockReset_outq : s.blockReset.outq = [] := rfl
@[simp] theorem State.blockReset_src : s.blockReset.src = s.src := rfl
@[simp] theorem State.blockReset_cfg : s.blockReset.cfg = s.cfg := rfl
@[simp] theorem State.blockReset_fbEpoch : s.blockReset.fbEpoch = s.fbEpoch + 1 := rfl
@[simp] theorem State.blockReset_commandCount : s.blockReset.commandCount = s.commandCount := rfl
@[simp] theorem State.blockReset_srcRace : s.blockReset.srcRace = [] := rfl
@[simp] theorem State.blockReset_schedule : s.blockReset.schedule = s.schedule := rfl
@[simp] theorem State.blockReset_hostStuck : s.blockReset.hostStuck = s.hostStuck := rfl
@[simp] theorem State.blockReset_hostReads : s.blockReset.hostReads = s.hostReads := rfl
@[simp] theorem State.blockReset_accepted : s.blockReset.accepted = s.accepted := rfl

end

end Sys2Proof.Machine
end

