-- ==== Sys2Proof/Laws/Ops.lean ====
section
/-! SUPPORT. What each shared operation other than painting can do, said once: emitting, advancing the phase, recording an
error, reading the source memory. -/

namespace Sys2Proof.Machine

/-- Emitting a list: appended in order with the tag if a transport is bound, else nothing (43_sequencer.md R133). -/
theorem State.emitAll_eq (s : State) (ph : Phase) (ms : List Message) :
    s.emitAll ph ms = { s with outq := if s.txBound then s.outq ++ ms.map (Tagged.mk ph) else s.outq } := by
  induction ms generalizing s with
  | nil => cases s; simp [emitAll]
  | cons m ms ih =>
    have h : s.emitAll ph (m :: ms) = (s.emit ph m).emitAll ph ms := rfl
    rw [h, ih]
    by_cases hb : s.txBound <;> simp [emit, hb]

/-- Whether a queue of messages of one tag holds a tag. -/
theorem hasPhase_map (ph ph' : Phase) (ms : List Message) :
    hasPhase (ms.map (Tagged.mk ph)) ph' = (decide (ph = ph') && !ms.isEmpty) := by
  induction ms with
  | nil => simp [hasPhase]
  | cons m ms ih =>
    by_cases h : ph = ph' <;> simp [hasPhase, h]

theorem hasPhase_append (q q' : List Tagged) (ph : Phase) : hasPhase (q ++ q') ph = (hasPhase q ph || hasPhase q' ph) := by
  simp [hasPhase]

@[simp] theorem hasPhase_nil (ph : Phase) : hasPhase [] ph = false := rfl

theorem hasPhase_cons (m : Tagged) (q : List Tagged) (ph : Phase) :
    hasPhase (m :: q) ph = (decide (m.phase = ph) || hasPhase q ph) := by simp [hasPhase]

/-- The protocol state after `Advance()` (43_sequencer.md R140), by its value before and the tags still queued. -/
theorem advance_pstate_cases (p : PState) (q : List Tagged) :
    leaveConfiguring (leaveResetting p q) q =
      match p with
      | .uninitialized => .uninitialized
      | .resetting =>
        if hasPhase q .reset then .resetting else if hasPhase q .config then .configuring else .ready
      | .configuring => if hasPhase q .config then .configuring else .ready
      | .ready => .ready := by
  cases p <;> cases h : hasPhase q .reset <;> cases h' : hasPhase q .config <;>
    simp [leaveResetting, leaveConfiguring, h, h']

theorem CmdError.code_ne_zero (e : CmdError) : e.code ≠ 0#4 := by cases e <;> decide

theorem CmdError.code_le (e : CmdError) : e.code.toNat ≤ 4 := by cases e <;> decide

/-- A recorded error is the old code, or the new one over 0 (10_state.md R34). -/
theorem recordErr_cases (err : BitVec 4) (e : CmdError) :
    (err ≠ 0#4 ∧ recordErr err e = err) ∨ (err = 0#4 ∧ recordErr err e = e.code) := by
  by_cases h : err = 0#4
  · exact .inr ⟨h, if_pos h⟩
  · exact .inl ⟨h, if_neg h⟩

theorem recordErr_le {err : BitVec 4} (h : err.toNat ≤ 4) (e : CmdError) : (recordErr err e).toNat ≤ 4 := by
  rcases recordErr_cases err e with ⟨-, h'⟩ | ⟨-, h'⟩ <;> rw [h']
  · exact h
  · exact e.code_le

/-- A source byte that no write races for is the byte the memory holds (20_memory.md R47). -/
theorem State.srcRead_of_not_raced (s : State) {a : Nat} (ha : a < 65536) (h : ∀ c ∈ s.srcRace, c.1 ≠ a) :
    s.srcRead a = Mem.read Config.srcContents s.src a := by
  have : s.srcOlds a = [] := by
    simp only [srcOlds, List.map_eq_nil_iff, List.filter_eq_nil_iff]
    intro c hc
    simp [h c hc]
  simp [srcRead, Nat.mod_eq_of_lt ha, this]

/-- A raced source read gives one of the bytes held since submission (20_memory.md R64). -/
theorem State.srcRead_mem (s : State) {a : Nat} (ha : a < 65536) :
    s.srcRead a ∈ Mem.read Config.srcContents s.src a :: s.srcOlds a := by
  unfold srcRead
  simp only [Nat.mod_eq_of_lt ha]
  split
  · simp
  · rename_i old olds h
    rw [h]
    have hlt : Config.srcPick s.commandCount a % (olds.length + 2) <
        (Mem.read Config.srcContents s.src a :: old :: olds).length := by
      simpa using Nat.mod_lt (Config.srcPick s.commandCount a) (Nat.succ_pos (olds.length + 1))
    rw [List.getD_eq_getElem _ _ hlt]
    exact List.getElem_mem hlt

end Sys2Proof.Machine
end

