-- ==== Sys2Proof/Laws/Paint.lean ====
section
/-! SUPPORT. What `Plot`, painting a list of coordinates and FILL do to every bit of every framebuffer byte
(40_bitpacker.md R89, R90, R92), each said once. -/

namespace Sys2Proof

theorem Config.width_pos (c : Config) : 0 < c.width := Nat.succ_pos _

theorem Config.width_le (c : Config) : c.width ≤ 128 := c.widthPred.isLt

theorem Config.height_eq (c : Config) : c.height = 32 ∨ c.height = 64 ∨ c.height = 128 := by
  cases c with | mk _ h => cases h <;> simp [Config.height, PanelHeight.rows]

theorem Config.height_eq_pages (c : Config) : c.height = 8 * c.pages := by
  rcases c.height_eq with h | h | h <;> simp [Config.pages, h]

theorem Config.fbLen_eq (c : Config) : c.fbLen = c.width * c.pages := by
  have h : c.width * c.height = 8 * (c.width * c.pages) := by rw [c.height_eq_pages]; ring
  rw [Config.fbLen, h, Nat.mul_div_cancel_left _ (by norm_num)]

/-- `setBit` replaces one bit and keeps the other seven (20_memory.md R50). -/
theorem getLsbD_setBit (b : Byte) (n k : Nat) (hk : k < 8) (c : Colour) :
    (setBit b n c).getLsbD k = if k = n then c.isWhite else b.getLsbD k := by
  have h : ((1#8 <<< n).getLsbD k) = decide (k = n) := by
    rw [BitVec.getLsbD_shiftLeft]
    simp only [hk, decide_true, Bool.true_and, BitVec.getLsbD_one]
    by_cases h : k = n
    · simp [h]
    · have : ¬(k - n = 0 ∧ n ≤ k) := by omega
      by_cases h' : k < n
      · simp [h, h']
      · simp [h]; omega
  cases c
  · simp only [setBit, BitVec.getLsbD_and, BitVec.getLsbD_not, hk, h, Colour.isWhite]
    by_cases h' : k = n <;> simp [h']
  · simp only [setBit, BitVec.getLsbD_or, h, Colour.isWhite]
    by_cases h' : k = n <;> simp [h']

namespace Machine

/-- An in-range pixel lies in a framebuffer byte (20_memory.md R45). -/
theorem index_lt (c : Config) {x y : Nat} (hx : x < c.width) (hy : y < c.height) : c.index x y < c.fbLen := by
  have hp : y / 8 < c.pages := by have := c.height_eq_pages; omega
  have h : (y / 8 + 1) * c.width ≤ c.pages * c.width := Nat.mul_le_mul_right _ hp
  rw [c.fbLen_eq, Config.index, Nat.mul_comm c.width]
  rw [Nat.add_mul] at h
  omega

/-- The pixel that the bit of pixel `(x, y)` holds is `(x, y)`. -/
theorem pixelOfBit_index (c : Config) {x : Nat} (y : Nat) (hx : x < c.width) :
    pixelOfBit c (c.index x y) (bitOf y) = (x, y) := by
  have h1 : (x + y / 8 * c.width) % c.width = x := by rw [Nat.add_mul_mod_self_right, Nat.mod_eq_of_lt hx]
  have h2 : (x + y / 8 * c.width) / c.width = y / 8 := by
    rw [Nat.add_mul_div_right _ _ c.width_pos, Nat.div_eq_of_lt hx, Nat.zero_add]
  simp only [pixelOfBit, Config.index, bitOf, h1, h2, Prod.mk.injEq, true_and]
  omega

/-- The bit that holds the pixel of bit `b` of byte `i` is that bit. -/
theorem index_pixelOfBit (c : Config) (i : Nat) {b : Nat} (hb : b < 8) :
    c.index (pixelOfBit c i b).1 (pixelOfBit c i b).2 = i ∧ bitOf (pixelOfBit c i b).2 = b := by
  have h : (i / c.width * 8 + b) / 8 = i / c.width := by omega
  refine ⟨?_, by simp [pixelOfBit, bitOf]; omega⟩
  simp only [pixelOfBit, Config.index, h]
  rw [Nat.mul_comm]
  exact Nat.mod_add_div i c.width

/-- Every bit of a framebuffer byte holds an in-range pixel (20_memory.md R45). -/
theorem pixelOfBit_inRange (c : Config) {i b : Nat} (hi : i < c.fbLen) (hb : b < 8) :
    (pixelOfBit c i b).1 < c.width ∧ (pixelOfBit c i b).2 < c.height := by
  refine ⟨Nat.mod_lt _ c.width_pos, ?_⟩
  have h : i / c.width < c.pages := by
    rw [c.fbLen_eq] at hi
    exact Nat.div_lt_of_lt_mul hi
  have := c.height_eq_pages
  simp only [pixelOfBit]
  omega

/-- One `Plot`, seen at bit `b` of byte `i` (40_bitpacker.md R89). -/
theorem read_plotMem (cfg : Config) (draw : Nat → Byte) (c : Colour) (m : Mem) (p : Int × Int) (i : Nat) {b : Nat}
    (hb : b < 8) :
    ((plotMem cfg draw c m p).read draw i).getLsbD b =
      if i < cfg.fbLen ∧ (((pixelOfBit cfg i b).1 : Int), ((pixelOfBit cfg i b).2 : Int)) = p then c.isWhite
      else (m.read draw i).getLsbD b := by
  obtain ⟨x, y⟩ := p
  unfold plotMem
  by_cases hr : cfg.InRange x y
  · obtain ⟨hx0, hy0, hx, hy⟩ := hr
    lift x to Nat using hx0
    lift y to Nat using hy0
    have hx' : x < cfg.width := by exact_mod_cast hx
    have hy' : y < cfg.height := by exact_mod_cast hy
    have hin : cfg.InRange (x : Int) (y : Int) := ⟨by omega, by omega, hx, hy⟩
    rw [if_pos hin]
    simp only [Int.toNat_natCast, Prod.mk.injEq, Nat.cast_inj]
    by_cases hi : i = cfg.index x y
    · subst hi
      rw [Mem.read_write_same, getLsbD_setBit _ _ _ hb]
      by_cases hbit : b = bitOf y
      · subst hbit
        have := pixelOfBit_index cfg y hx'
        simp [this, index_lt cfg hx' hy']
      · have : ¬((pixelOfBit cfg (cfg.index x y) b).1 = x ∧ (pixelOfBit cfg (cfg.index x y) b).2 = y) := by
          rintro ⟨-, h⟩
          exact hbit (by rw [← (index_pixelOfBit cfg (cfg.index x y) hb).2, h])
        simp [hbit, this]
    · rw [Mem.read_write_other _ _ _ hi]
      have : ¬((pixelOfBit cfg i b).1 = x ∧ (pixelOfBit cfg i b).2 = y) := by
        rintro ⟨h1, h2⟩
        exact hi (by rw [← (index_pixelOfBit cfg i hb).1, h1, h2])
      simp [this]
  · simp only [hr, if_false]
    by_cases hi : i < cfg.fbLen
    · have h := pixelOfBit_inRange cfg hi hb
      have : ¬(((pixelOfBit cfg i b).1 : Int), ((pixelOfBit cfg i b).2 : Int)) = (x, y) := by
        rintro h'
        simp only [Prod.mk.injEq] at h'
        exact hr ⟨by omega, by omega, by omega, by omega⟩
      simp [this]
    · simp [hi]

/-- Painting, seen at bit `b` of byte `i` (40_bitpacker.md R90): order and repetition do not matter. -/
theorem read_foldl_plotMem (cfg : Config) (draw : Nat → Byte) (c : Colour) (pts : List (Int × Int)) (m : Mem) (i : Nat)
    {b : Nat} (hb : b < 8) :
    ((pts.foldl (plotMem cfg draw c) m).read draw i).getLsbD b =
      if i < cfg.fbLen ∧ (((pixelOfBit cfg i b).1 : Int), ((pixelOfBit cfg i b).2 : Int)) ∈ pts then c.isWhite
      else (m.read draw i).getLsbD b := by
  induction pts generalizing m with
  | nil => simp
  | cons p pts ih =>
    rw [List.foldl_cons, ih, read_plotMem _ _ _ _ _ _ hb]
    by_cases h1 : i < cfg.fbLen <;>
      by_cases h2 : (((pixelOfBit cfg i b).1 : Int), ((pixelOfBit cfg i b).2 : Int)) ∈ pts <;>
        by_cases h3 : (((pixelOfBit cfg i b).1 : Int), ((pixelOfBit cfg i b).2 : Int)) = p <;>
          simp [h1, h2, h3]

/-- Painting a list paints exactly its in-range pixels. -/
theorem paintedExactly_paint (s : State) (pts : List (Int × Int)) (c : Colour) :
    PaintedExactly s (s.paint pts c) (OnList pts) c := by
  refine ⟨rfl, fun i b hb => ?_⟩
  have h := read_foldl_plotMem s.cfg (Config.fbDraw s.fbEpoch) c pts s.fb i hb
  exact ⟨fun hin => h.trans (if_pos hin), fun hout => h.trans (if_neg hout)⟩

/-- A painted set can be described in any way that agrees on the in-range pixels. -/
theorem PaintedExactly.congr {s t : State} {S T : Nat × Nat → Prop} {c : Colour} (h : PaintedExactly s t S c)
    (hST : ∀ p : Nat × Nat, p.1 < s.cfg.width → p.2 < s.cfg.height → (S p ↔ T p)) : PaintedExactly s t T c := by
  refine ⟨h.1, fun i b hb => ?_⟩
  have : InSet s.cfg S i b ↔ InSet s.cfg T i b :=
    and_congr_right fun hi => by
      obtain ⟨hx, hy⟩ := pixelOfBit_inRange s.cfg hi hb
      exact hST _ hx hy
  rw [← this]
  exact h.2 i b hb

/-- FILL, seen at byte `i` (40_bitpacker.md R92). -/
theorem fbRead_fillFb (s : State) (v : Byte) (i : Nat) :
    (s.fillFb v).fbRead i = if i < s.cfg.fbLen then v else s.fbRead i := by
  have := Mem.read_foldl_write (Config.fbDraw s.fbEpoch) v (List.range s.cfg.fbLen) s.fb i
  simpa [State.fbRead, State.fillFb] using this

/-- `Plot` keeps the canonical form and the address space. -/
theorem plotMem_ok (cfg : Config) (draw : Nat → Byte) (c : Colour) {m : Mem} (hw : Mem.Wf m) (hb : Mem.Below cfg.fbLen m)
    (p : Int × Int) : Mem.Wf (plotMem cfg draw c m p) ∧ Mem.Below cfg.fbLen (plotMem cfg draw c m p) := by
  unfold plotMem
  split_ifs with h
  · obtain ⟨hx0, hy0, hx, hy⟩ := h
    exact ⟨hw.write _ _, hb.write (index_lt cfg (by omega) (by omega)) _⟩
  · exact ⟨hw, hb⟩

theorem foldl_plotMem_ok (cfg : Config) (draw : Nat → Byte) (c : Colour) {m : Mem} (hw : Mem.Wf m)
    (hb : Mem.Below cfg.fbLen m) (pts : List (Int × Int)) :
    Mem.Wf (pts.foldl (plotMem cfg draw c) m) ∧ Mem.Below cfg.fbLen (pts.foldl (plotMem cfg draw c) m) := by
  induction pts generalizing m with
  | nil => exact ⟨hw, hb⟩
  | cons p pts ih =>
    have h := plotMem_ok cfg draw c hw hb p
    exact ih h.1 h.2

end Machine

end Sys2Proof
end

