-- ==== Sys2Proof/Laws/PerInstr.lean ====
section
/-! SUPPORT. Statements about every command as syntax, one lemma per constructor. Family EncodedRow: the word of a command
selects the command's row of spec/opcode_table.json (30_encoding.md R73). -/

namespace Sys2Proof

theorem Opcode.mask_eq (o : Opcode) :
    o.mask = packAll 0xFF#8 o.rsvFields.k 0x7F#7 o.rsvFields.a o.rsvFields.b o.rsvFields.c o.rsvFields.d
      o.rsvFields.e := by
  cases o <;> decide

theorem Opcode.matchWord_eq (o : Opcode) : o.matchWord = packAll o.byte 0#1 0#7 0#8 0#8 0#8 0#8 0#16 := by
  cases o <;> decide

/-- A packed word selects a row when its opcode is the row's and its must-be-zero bits are 0. -/
theorem packC64_row (o : Opcode) (k : BitVec 1) (a b c d : BitVec 8) (e : BitVec 16)
    (h : k &&& o.rsvFields.k = 0#1 ∧ a &&& o.rsvFields.a = 0#8 ∧ b &&& o.rsvFields.b = 0#8 ∧ c &&& o.rsvFields.c = 0#8 ∧
      d &&& o.rsvFields.d = 0#8 ∧ e &&& o.rsvFields.e = 0#16) :
    packC64 o.byte k a b c d e &&& o.mask = o.matchWord := by
  obtain ⟨hk, ha, hb, hc, hd, he⟩ := h
  have h8 : o.byte &&& 0xFF#8 = o.byte := BitVec.and_allOnes
  rw [packC64_eq, o.mask_eq, o.matchWord_eq, packAll_and, hk, ha, hb, hc, hd, he, h8]
  rfl

namespace Laws.EncodedRow

/-- The word of the command selects its row: `(word & mask) = match` (30_encoding.md R73). -/
def Statement (i : Instr) : Prop := encode i &&& i.opcode.mask = i.opcode.matchWord

theorem nop : Statement .nop := packC64_row _ _ _ _ _ _ _ (by simp [Opcode.rsvFields, Instr.opcode])

theorem clearErr : Statement .clearErr := packC64_row _ _ _ _ _ _ _ (by simp [Opcode.rsvFields, Instr.opcode])

theorem setPixel (x y : Nat) (c : Colour) : Statement (.setPixel x y c) := packC64_row _ _ _ _ _ _ _ (by simp [Opcode.rsvFields, Instr.opcode])

theorem fill (c : Colour) : Statement (.fill c) := packC64_row _ _ _ _ _ _ _ (by simp [Opcode.rsvFields, Instr.opcode])

theorem readPixel (x y : Nat) : Statement (.readPixel x y) := packC64_row _ _ _ _ _ _ _ (by simp [Opcode.rsvFields, Instr.opcode])

theorem readByte (index : Nat) : Statement (.readByte index) := packC64_row _ _ _ _ _ _ _ (by simp [Opcode.rsvFields, Instr.opcode])

theorem drawBitmap (x y w h src : Nat) (c : Colour) : Statement (.drawBitmap x y w h src c) := packC64_row _ _ _ _ _ _ _ (by simp [Opcode.rsvFields, Instr.opcode])

theorem drawLine (x1 y1 x2 y2 : Nat) (c : Colour) : Statement (.drawLine x1 y1 x2 y2 c) := packC64_row _ _ _ _ _ _ _ (by simp [Opcode.rsvFields, Instr.opcode])

theorem drawRect (x1 y1 x2 y2 : Nat) (c : Colour) : Statement (.drawRect x1 y1 x2 y2 c) := packC64_row _ _ _ _ _ _ _ (by simp [Opcode.rsvFields, Instr.opcode])

theorem fillRect (x1 y1 x2 y2 : Nat) (c : Colour) : Statement (.fillRect x1 y1 x2 y2 c) := packC64_row _ _ _ _ _ _ _ (by simp [Opcode.rsvFields, Instr.opcode])

theorem drawCircle (cx cy r : Nat) (c : Colour) : Statement (.drawCircle cx cy r c) := packC64_row _ _ _ _ _ _ _ (by simp [Opcode.rsvFields, Instr.opcode])

theorem fillCircle (cx cy r : Nat) (c : Colour) : Statement (.fillCircle cx cy r c) := packC64_row _ _ _ _ _ _ _ (by simp [Opcode.rsvFields, Instr.opcode])

theorem setCursor (x y : Nat) : Statement (.setCursor x y) := packC64_row _ _ _ _ _ _ _ (by simp [Opcode.rsvFields, Instr.opcode])

theorem getCursor : Statement .getCursor := packC64_row _ _ _ _ _ _ _ (by simp [Opcode.rsvFields, Instr.opcode])

theorem setRotated (rot : Bool) : Statement (.setRotated rot) := by
  cases rot <;> exact packC64_row _ _ _ _ _ _ _ (by decide)

theorem getRotated : Statement .getRotated := packC64_row _ _ _ _ _ _ _ (by simp [Opcode.rsvFields, Instr.opcode])

theorem init (bind : Bool) : Statement (.init bind) := by
  cases bind <;> exact packC64_row _ _ _ _ _ _ _ (by decide)

theorem flush : Statement .flush := packC64_row _ _ _ _ _ _ _ (by simp [Opcode.rsvFields, Instr.opcode])

end Laws.EncodedRow

end Sys2Proof
end

