-- ==== Sys2Proof/Laws/Step.lean ====
section
/-! SUPPORT. What a command and a step can do: one inversion lemma for each, from which every invariant is derived. -/

namespace Sys2Proof.Machine

/-- Every command answers a next state. -/
theorem exec_next (i : Instr) (s : State) : ∃ t, exec i s = .next t := by cases i <;> exact ⟨_, rfl⟩

/-- A dispatched word executes its command, or raises its error (30_encoding.md R73). -/
theorem dispatch_cases {w : Word64} {s t : State} (h : dispatch w s = .next t) :
    (∃ i, decode w = .ok i ∧ exec i s = .next t) ∨
      (∃ e, decode w = .error e ∧ t = s.raiseCmdError e.cmdError) := by
  unfold dispatch at h
  cases hd : decode w with
  | ok i => exact .inl ⟨i, rfl, by simpa [hd] using h⟩
  | error e => exact .inr ⟨e, rfl, by simpa [hd, eq_comm] using h⟩

/-- Every word taken answers a next state. -/
theorem dispatch_next (w : Word64) (s : State) : ∃ t, dispatch w s = .next t := by
  unfold dispatch
  cases decode w with
  | ok i => exact exec_next i s
  | error e => exact ⟨_, rfl⟩

/-- Taking a command (10_state.md R36). -/
theorem takeCommand_cases {w : Word64} {s t : State} (h : takeCommand w s = .next t) :
    ∃ u, dispatch w s = .next u ∧ t = u.retire := by
  obtain ⟨u, hu⟩ := dispatch_next w s
  rw [takeCommand, hu] at h
  exact ⟨u, hu, by simpa [eq_comm] using h⟩

/-- The engine's move (10_state.md R36). -/
theorem engineMove_cases {s t : State} (h : engineMove s = .next t) :
    (∃ w u, s.pending = some w ∧ dispatch w s = .next u ∧ t = u.retire) ∨ (s.pending = none ∧ t = s.finish) := by
  unfold engineMove at h
  cases hp : s.pending with
  | some w =>
    rw [hp] at h
    obtain ⟨u, hu, ht⟩ := takeCommand_cases h
    exact .inl ⟨w, u, rfl, hu, ht⟩
  | none => exact .inr ⟨rfl, by simpa [hp, eq_comm] using h⟩

/-- What one step did: `b` is the state with the move taken off the schedule, `t` the next state. -/
inductive StepCase (s b t : State) : Prop where
  /-- The engine took and executed the command of PENDING (10_state.md R36). -/
  | took (w : Word64) (u : State) (hp : b.pending = some w) (hu : dispatch w b = .next u) (ht : t = u.retire)
  /-- The engine had no command: BUSY falls once OUTQ is empty (10_state.md R36). -/
  | finished (hp : b.pending = none) (ht : t = b.finish)
  /-- The adapter accepted a message, if there was one (43_sequencer.md R134). -/
  | accepted (ok : Bool) (ht : t = b.accept ok)
  /-- The host read a register (10_state.md R22). -/
  | read (off : Nat) (ht : t = b.logRead off (b.regRead off))
  /-- The host wrote a register (10_state.md R22). -/
  | wrote (off : Nat) (v : Word32) (hs : s.schedule.head? = some (.host (.write (s.cfg.fbpBase + off) 32 v)))
      (ht : t = b.regWrite off v)
  /-- The host made an access that is not admitted, and is stuck (20_memory.md R53). -/
  | stopped (ht : t = b.stopHost)
  /-- A stuck host had the move (60_exceptions.md R172). -/
  | skipped (hs : b.hostStuck = true) (ht : t = b)
  /-- The host polled before a submit (30_encoding.md R88). -/
  | polledIssue (w : Word64) (hs : s.schedule.head? = some (.issue w))
      (ht : t = pollMove (.issue w) (submitMoves b.cfg w) b)
  /-- The host polled before reading RESULT (30_encoding.md R88). -/
  | polledCollect (hs : s.schedule.head? = some .collect) (ht : t = pollMove .collect (resultMoves b.cfg) b)
  /-- The platform wrote a source byte (20_memory.md R64). -/
  | srcWritten (a : BitVec 16) (v : Byte) (ht : t = b.srcWrite a v)
  /-- The block reset (70_reset_and_hazards.md R173). -/
  | reset (hs : s.schedule.head? = some .blockReset) (ht : t = b.blockReset)

/-- What the engine's move did. -/
theorem StepCase.of_engineMove {s b t : State} (h : engineMove b = .next t) : StepCase s b t := by
  rcases engineMove_cases h with ⟨w, u, hp, hu, ht⟩ | ⟨hp, ht⟩
  · exact .took w u hp hu ht
  · exact .finished hp ht

/-- What the move of whoever has something to do did. -/
theorem StepCase.of_progressMove {s b t : State} (h : progressMove b = .next t) : StepCase s b t := by
  unfold progressMove at h
  split_ifs at h with h1 h2
  · exact .of_engineMove h
  · exact .finished (by simpa using h1) (by simpa [eq_comm] using h)
  · exact .accepted _ (by simpa [eq_comm] using h)

/-- What a host access does: it stops the host, or acts on a register at an admitted offset. -/
theorem onWindow_cases (s : State) (addr bits : Nat) (act : Nat → State) :
    onWindow s addr bits act = s.stopHost ∨
      ∃ off, addr = s.cfg.fbpBase + off ∧ off < 32 ∧ bits = 32 ∧ off % 4 = 0 ∧ onWindow s addr bits act = act off := by
  unfold onWindow windowOffset
  by_cases hw : s.cfg.fbpBase ≤ addr ∧ addr < s.cfg.fbpBase + 32
  · rw [if_pos hw]
    by_cases ha : admitted (addr - s.cfg.fbpBase) bits
    · have h : bits = 32 ∧ (addr - s.cfg.fbpBase) % 4 = 0 := by simpa [admitted] using ha
      exact .inr ⟨addr - s.cfg.fbpBase, by omega, by omega, h.1, h.2, if_pos ha⟩
    · exact .inl (if_neg ha)
  · rw [if_neg hw]
    exact .inl rfl

/-- An admitted access acts on its register. -/
theorem onWindow_admitted (s : State) {off : Nat} (h : off < 32) (h4 : off % 4 = 0) (act : Nat → State) :
    onWindow s (s.cfg.fbpBase + off) 32 act = act off := by
  have hw : windowOffset s.cfg (s.cfg.fbpBase + off) = some off := by
    unfold windowOffset
    rw [if_pos (by omega), Nat.add_sub_cancel_left]
  simp [onWindow, hw, admitted, h4]

/-- What a move of the host does: nothing if the host is stuck, else what it does. -/
theorem hostTurn_cases (act : State → State) (s : State) :
    (s.hostStuck = true ∧ hostTurn act s = s) ∨ (s.hostStuck = false ∧ hostTurn act s = act s) := by
  cases h : s.hostStuck <;> simp [hostTurn, h]

/-- What a host access did. -/
theorem StepCase.of_hostMove {s b : State} {a : HostAccess} (hcfg : b.cfg = s.cfg)
    (hs : s.schedule.head? = some (.host a)) : StepCase s b (hostMove a b) := by
  cases a with
  | read addr bits =>
    rcases onWindow_cases b addr bits fun off => b.logRead off (b.regRead off) with h | ⟨off, -, -, -, -, h⟩
    · exact .stopped h
    · exact .read off h
  | write addr bits v =>
    rcases onWindow_cases b addr bits fun off => b.regWrite off v with h | ⟨off, ha, -, hb, -, h⟩
    · exact .stopped h
    · exact .wrote off v (by rw [hs, ha, hb, hcfg]) h

/-- What a move of the host did. -/
theorem StepCase.of_hostTurn {s b t : State} {act : State → State} (h : t = hostTurn act b)
    (hact : StepCase s b (act b)) : StepCase s b t := by
  rcases hostTurn_cases act b with ⟨hb, h'⟩ | ⟨-, h'⟩
  · exact .skipped hb (h.trans h')
  · rw [h, h']
    exact hact

/-- One step is one of these cases, from the state in which the move has been taken off the schedule. -/
theorem step_cases {s t : State} (h : step s = .next t) :
    StepCase s { s with schedule := s.schedule.tail } t := by
  unfold step nextMove at h
  cases hs : s.schedule with
  | nil =>
    rw [hs] at h
    have hb : ({ s with schedule := [].tail } : State) = s := by rw [List.tail_nil, ← hs]
    rw [hb]
    split_ifs at h
    exact .of_progressMove h
  | cons m rest =>
    rw [hs] at h
    have hhead : s.schedule.head? = some m := by rw [hs]; rfl
    cases m with
    | host a => exact .of_hostTurn (Host.Outcome.next.inj h).symm (.of_hostMove rfl hhead)
    | issue w => exact .of_hostTurn (Host.Outcome.next.inj h).symm (.polledIssue w hhead rfl)
    | collect => exact .of_hostTurn (Host.Outcome.next.inj h).symm (.polledCollect hhead rfl)
    | engine => exact .of_engineMove h
    | adapter ok => exact .accepted ok (Host.Outcome.next.inj h).symm
    | progress => exact .of_progressMove h
    | srcWrite a v => exact .srcWritten a v (Host.Outcome.next.inj h).symm
    | blockReset => exact .reset hhead (Host.Outcome.next.inj h).symm

/-- In the engine's turn with a command pending, the step takes it. -/
theorem step_of_enginesTurn {s : State} {rest : List Move} {w : Word64} (hs : EnginesTurn s rest)
    (hp : s.pending = some w) : step s = takeCommand w { s with schedule := rest } := by
  have hsome : s.pending.isSome = true := by rw [hp]; rfl
  have heng : engineMove { s with schedule := rest } = takeCommand w { s with schedule := rest } := by
    simp only [engineMove, hp]
  have hprog : progressMove { s with schedule := rest } = takeCommand w { s with schedule := rest } :=
    (if_pos hsome).trans heng
  rcases hs with hs | hs | ⟨hs, rfl⟩
  · rw [step, nextMove, hs]
    exact heng
  · rw [step, nextMove, hs]
    exact hprog
  · have h : ({ s with schedule := [] } : State) = s := by rw [← hs]
    have hstuck : s.allStuck = false := by simp [State.allStuck, hp]
    rw [h] at hprog ⊢
    rw [step, nextMove, hs]
    simpa only [hstuck, Bool.false_eq_true, if_false] using hprog

/-- A word that decodes is executed, and the command retired. -/
theorem takeCommand_ok {w : Word64} {i : Instr} {s t : State} (hd : decode w = .ok i) (ht : exec i s = .next t) :
    takeCommand w s = .next t.retire := by
  rw [takeCommand, dispatch, hd]
  simp only [ht]

/-- A word that does not decode raises its error, and is retired. -/
theorem takeCommand_error {w : Word64} {e : DecodeError} (s : State) (hd : decode w = .error e) :
    takeCommand w s = .next (s.raiseCmdError e.cmdError).retire := by rw [takeCommand, dispatch, hd]

end Sys2Proof.Machine
end

