-- ==== Sys2Proof/Laws/Walks.lean ====
section
/-! SUPPORT. Membership in the ranges and boxes of Machine/Walks.lean, and the equations of the walks' loops. -/

namespace Sys2Proof

@[simp] theorem mem_natRange {a b n : Nat} : n ∈ natRange a b ↔ a ≤ n ∧ n ≤ b := by
  simp only [natRange, List.mem_map, List.mem_range]
  constructor
  · rintro ⟨k, hk, rfl⟩; omega
  · rintro ⟨h1, h2⟩; exact ⟨n - a, by omega, by omega⟩

@[simp] theorem mem_intRange {a b n : Int} : n ∈ intRange a b ↔ a ≤ n ∧ n ≤ b := by
  simp only [intRange, List.mem_map, List.mem_range]
  constructor
  · rintro ⟨k, hk, rfl⟩; omega
  · rintro ⟨h1, h2⟩; exact ⟨(n - a).toNat, by omega, by omega⟩

/-- Ranges count up, as the spec's loops do. -/
theorem natRange_eq_range' (a b : Nat) : natRange a b = List.range' a (b + 1 - a) := by
  simp [natRange, List.range_eq_range', List.map_add_range']

theorem mem_rectBox {x1 y1 x2 y2 : Nat} {p : Int × Int} :
    p ∈ rectBox x1 y1 x2 y2 ↔
      ∃ px py : Nat, p = ((px : Int), (py : Int)) ∧ min x1 x2 ≤ px ∧ px ≤ max x1 x2 ∧ min y1 y2 ≤ py ∧ py ≤ max y1 y2 := by
  simp only [rectBox, List.mem_flatMap, List.mem_map, mem_natRange]
  constructor
  · rintro ⟨py, hy, px, hx, rfl⟩; exact ⟨px, py, rfl, hx.1, hx.2, hy.1, hy.2⟩
  · rintro ⟨px, py, rfl, h1, h2, h3, h4⟩; exact ⟨py, ⟨h3, h4⟩, px, ⟨h1, h2⟩, rfl⟩

theorem mem_circlePoints {cx cy : Int} {q p : Int × Int} :
    p ∈ circlePoints cx cy q ↔ (p.1 = cx - q.1 ∨ p.1 = cx + q.1) ∧ (p.2 = cy + q.2 ∨ p.2 = cy - q.2) := by
  obtain ⟨u, v⟩ := p
  simp only [circlePoints, List.mem_cons, Prod.mk.injEq, List.not_mem_nil, or_false]
  tauto

theorem mem_circleSpans {cx cy : Int} {q p : Int × Int} :
    p ∈ circleSpans cx cy q ↔ (cx + q.1 ≤ p.1 ∧ p.1 ≤ cx - q.1) ∧ (p.2 = cy + q.2 ∨ p.2 = cy - q.2) := by
  obtain ⟨u, v⟩ := p
  simp only [circleSpans, List.mem_flatMap, List.mem_map, mem_intRange, List.mem_cons, List.not_mem_nil, or_false,
    Prod.mk.injEq]
  constructor
  · rintro ⟨py, hy, px, hx, rfl, rfl⟩; exact ⟨hx, hy⟩
  · rintro ⟨hx, hy⟩; exact ⟨v, hy, u, hx, rfl, rfl⟩

theorem mem_bitmapBytes {w h : Nat} {p : Nat × Nat} : p ∈ bitmapBytes w h ↔ p.1 < h ∧ p.2 < byteWidth w := by
  obtain ⟨j, k⟩ := p
  simp [bitmapBytes]

/-- The bytes read are those of the rows, so a bitmap's points are, byte by byte, those of the byte read for it. -/
theorem bitmapPoints_reads (read : Nat → Byte) (x y w h src : Nat) :
    bitmapPoints x y w h ((bitmapReads w h src).map read) =
      (bitmapBytes w h).flatMap fun p => bytePoints x y w p.1 p.2 (read (srcAddr src w p.1 p.2)) := by
  have hzip : ∀ l : List (Nat × Nat),
      (l.zip ((l.map fun p => srcAddr src w p.1 p.2).map read)).flatMap
          (fun p => bytePoints x y w p.1.1 p.1.2 p.2) =
        l.flatMap fun p => bytePoints x y w p.1 p.2 (read (srcAddr src w p.1 p.2)) := by
    intro l
    induction l with
    | nil => rfl
    | cons p l ih => simp only [List.map_cons, List.zip_cons_cons, List.flatMap_cons, ih]
  exact hzip _

theorem lineLoop_zero (p : LineParams) (s : LineState) : lineLoop p 0 s = [] := rfl

/-- The loop ends at the terminal pixel. -/
theorem lineLoop_done {p : LineParams} {s : LineState} (h : s.x = p.x2 ∧ s.y = p.y2) (fuel : Nat) :
    lineLoop p fuel s = [] := by
  cases fuel <;> simp [lineLoop, h]

/-- The loop goes on elsewhere. -/
theorem lineLoop_next {p : LineParams} {s : LineState} (h : ¬(s.x = p.x2 ∧ s.y = p.y2)) (fuel : Nat) :
    lineLoop p (fuel + 1) s = (s.x, s.y) :: lineLoop p fuel (lineStep p s) := by
  simp only [lineLoop, if_neg h]

theorem circleLoop_succ (fuel : Nat) (s : CircleState) :
    circleLoop (fuel + 1) s = s :: (if (circleStep s).x > 0 then [] else circleLoop fuel (circleStep s)) := rfl

end Sys2Proof
end

