-- ==== Sys2Proof/Tests/Slice0.lean ====
section
/-! SUPPORT. The model's own tests: ill-formed terms refused, one word of each row decoded, one or two small steps for
each command, and, for every statement with hypotheses, a witness that meets them. Every expected result is from
spec/95_test_vectors.md (its vector's name is given), or computed by hand from the rule named. -/

namespace Sys2Proof.Tests

open Sys2Proof.Machine

/-! ## Small states -/

/-- A 128 x 64 panel on SPI with two configuration bytes, at a base of its own. -/
def cfg : Config where
  widthPred := 127
  panelHeight := .rows64
  xOffset := 0#8
  yOffset := 0#8
  transport := .spi
  i2cAddr := 0x3C#7
  mirrorH := false
  mirrorV := false
  invert := false
  initSeq := [0xAE#8, 0xAF#8]
  colStart := 0#7
  flushBeforeReady := .reject
  fbpBase := 0x1000

/-- A panel one column wide and 32 rows high: four framebuffer bytes. -/
def slim : Config := { cfg with widthPred := 0, panelHeight := .rows32, colStart := 0x22#7 }

/-- The state after reset. -/
def fresh : State := State.resetWith cfg

/-- After reset, with the listed framebuffer bytes. -/
def withFb (m : Mem) : State := { fresh with fb := m }

/-- After reset of the slim panel, with its four bytes. -/
def slimFb : State := { State.resetWith slim with fb := [(0, 0x11#8), (1, 0x22#8), (2, 0x33#8), (3, 0x44#8)] }

/-- The word submitted, and the engine's turn. -/
def submitted (w : Word64) : State := { fresh with pending := some w, busy := true, schedule := [.engine] }

/-- The next state, if there is one. -/
def nextOf (o : Host.Outcome State Fault Refusal) : Option State :=
  match o with
  | .next t => some t
  | .fault _ => none
  | .refused _ => none

/-- The fault, if there is one. -/
def faultOf (o : Host.Outcome State Fault Refusal) : Option Fault :=
  match o with
  | .next _ => none
  | .fault r => some r
  | .refused _ => none

/-- The framebuffer bytes listed after a command. -/
def fbAfter (i : Instr) (s : State) : Option Mem := (nextOf (exec i s)).map (·.fb)

/-- RESULT after a command. -/
def resultAfter (i : Instr) (s : State) : Option Word32 := (nextOf (exec i s)).map (·.result)

/-- ERR after one step. -/
def errAfter (s : State) : Option (BitVec 4) := (nextOf (step s)).map (·.err)

/-- Bytes of values `vs` at the addresses from `a` on. -/
def bytesFrom (a : Nat) (vs : List Byte) : Mem := (List.range vs.length).zip vs |>.map fun p => (a + p.1, p.2)

/-- `n` zero bytes from address `a`. -/
def zeros (a n : Nat) : Mem := bytesFrom a (List.replicate n 0#8)

/-! ## Ill-formed commands are refused (30_encoding.md R78) -/

theorem test_wf_setPixel : (Instr.setPixel 256 0 .white).wellFormed = false ∧ (Instr.setPixel 0 256 .white).wellFormed = false ∧
    (Instr.setPixel 255 255 .white).wellFormed = true := by decide

theorem test_wf_readPixel : (Instr.readPixel 256 0).wellFormed = false ∧ (Instr.readPixel 0 256).wellFormed = false ∧
    (Instr.readPixel 255 255).wellFormed = true := by decide

theorem test_wf_readByte : (Instr.readByte 65536).wellFormed = false ∧ (Instr.readByte 65535).wellFormed = true := by
  decide

theorem test_wf_drawBitmap :
    (Instr.drawBitmap 256 0 0 0 0 .white).wellFormed = false ∧ (Instr.drawBitmap 0 256 0 0 0 .white).wellFormed = false ∧
      (Instr.drawBitmap 0 0 256 0 0 .white).wellFormed = false ∧ (Instr.drawBitmap 0 0 0 256 0 .white).wellFormed = false ∧
        (Instr.drawBitmap 0 0 0 0 65536 .white).wellFormed = false ∧
          (Instr.drawBitmap 255 255 255 255 65535 .white).wellFormed = true := by decide

theorem test_wf_drawLine :
    (Instr.drawLine 256 0 0 0 .white).wellFormed = false ∧ (Instr.drawLine 0 256 0 0 .white).wellFormed = false ∧
      (Instr.drawLine 0 0 256 0 .white).wellFormed = false ∧ (Instr.drawLine 0 0 0 256 .white).wellFormed = false ∧
        (Instr.drawLine 255 255 255 255 .white).wellFormed = true := by decide

theorem test_wf_drawRect :
    (Instr.drawRect 256 0 0 0 .white).wellFormed = false ∧ (Instr.drawRect 0 256 0 0 .white).wellFormed = false ∧
      (Instr.drawRect 0 0 256 0 .white).wellFormed = false ∧ (Instr.drawRect 0 0 0 256 .white).wellFormed = false := by
  decide

theorem test_wf_fillRect :
    (Instr.fillRect 256 0 0 0 .white).wellFormed = false ∧ (Instr.fillRect 0 256 0 0 .white).wellFormed = false ∧
      (Instr.fillRect 0 0 256 0 .white).wellFormed = false ∧ (Instr.fillRect 0 0 0 256 .white).wellFormed = false := by
  decide

theorem test_wf_drawCircle :
    (Instr.drawCircle 256 0 0 .white).wellFormed = false ∧ (Instr.drawCircle 0 256 0 .white).wellFormed = false ∧
      (Instr.drawCircle 0 0 256 .white).wellFormed = false := by decide

theorem test_wf_fillCircle :
    (Instr.fillCircle 256 0 0 .white).wellFormed = false ∧ (Instr.fillCircle 0 256 0 .white).wellFormed = false ∧
      (Instr.fillCircle 0 0 256 .white).wellFormed = false := by decide

theorem test_wf_setCursor : (Instr.setCursor 256 0).wellFormed = false ∧ (Instr.setCursor 0 256).wellFormed = false := by
  decide

/-! ## One word of each row, written out from the encodings of 30_encoding.md R73 (OP, K, RSV, A, B, C, D, E) -/

theorem test_decode_nop :
    decode (0b00000000#8 ++ 0#1 ++ 0#7 ++ 0#8 ++ 0#8 ++ 0#8 ++ 0#8 ++ 0#16) = .ok .nop := by rfl

theorem test_decode_clearErr :
    decode (0b00000001#8 ++ 0#1 ++ 0#7 ++ 0#8 ++ 0#8 ++ 0#8 ++ 0#8 ++ 0#16) = .ok .clearErr := by rfl

theorem test_decode_setPixel :
    decode (0b00010000#8 ++ 1#1 ++ 0#7 ++ 3#8 ++ 10#8 ++ 0#8 ++ 0#8 ++ 0#16) = .ok (.setPixel 3 10 .white) := by rfl

theorem test_decode_fill :
    decode (0b00010001#8 ++ 1#1 ++ 0#7 ++ 0#8 ++ 0#8 ++ 0#8 ++ 0#8 ++ 0#16) = .ok (.fill .white) := by rfl

theorem test_decode_readPixel :
    decode (0b00010010#8 ++ 0#1 ++ 0#7 ++ 3#8 ++ 10#8 ++ 0#8 ++ 0#8 ++ 0#16) = .ok (.readPixel 3 10) := by rfl

theorem test_decode_readByte :
    decode (0b00010011#8 ++ 0#1 ++ 0#7 ++ 0#8 ++ 0#8 ++ 0#8 ++ 0#8 ++ 0x0183#16) = .ok (.readByte 0x0183) := by rfl

theorem test_decode_drawBitmap :
    decode (0b00010100#8 ++ 0#1 ++ 0#7 ++ 1#8 ++ 2#8 ++ 10#8 ++ 4#8 ++ 0xFEDC#16) =
      .ok (.drawBitmap 1 2 10 4 0xFEDC .black) := by rfl

theorem test_decode_drawLine :
    decode (0b00100000#8 ++ 1#1 ++ 0#7 ++ 1#8 ++ 2#8 ++ 3#8 ++ 4#8 ++ 0#16) = .ok (.drawLine 1 2 3 4 .white) := by rfl

theorem test_decode_drawRect :
    decode (0b00100001#8 ++ 1#1 ++ 0#7 ++ 1#8 ++ 2#8 ++ 3#8 ++ 4#8 ++ 0#16) = .ok (.drawRect 1 2 3 4 .white) := by rfl

theorem test_decode_fillRect :
    decode (0b00100010#8 ++ 0#1 ++ 0#7 ++ 1#8 ++ 2#8 ++ 3#8 ++ 4#8 ++ 0#16) = .ok (.fillRect 1 2 3 4 .black) := by rfl

theorem test_decode_drawCircle :
    decode (0b00100011#8 ++ 1#1 ++ 0#7 ++ 64#8 ++ 32#8 ++ 10#8 ++ 0#8 ++ 0#16) = .ok (.drawCircle 64 32 10 .white) := by
  rfl

theorem test_decode_fillCircle :
    decode (0b00100100#8 ++ 1#1 ++ 0#7 ++ 5#8 ++ 6#8 ++ 2#8 ++ 0#8 ++ 0#16) = .ok (.fillCircle 5 6 2 .white) := by rfl

theorem test_decode_setCursor :
    decode (0b00110000#8 ++ 0#1 ++ 0#7 ++ 10#8 ++ 20#8 ++ 0#8 ++ 0#8 ++ 0#16) = .ok (.setCursor 10 20) := by rfl

theorem test_decode_getCursor :
    decode (0b00110001#8 ++ 0#1 ++ 0#7 ++ 0#8 ++ 0#8 ++ 0#8 ++ 0#8 ++ 0#16) = .ok .getCursor := by rfl

theorem test_decode_setRotated :
    decode (0b00110010#8 ++ 0#1 ++ 0#7 ++ 0#8 ++ 0#8 ++ 0#8 ++ 0#8 ++ 1#16) = .ok (.setRotated true) := by rfl

theorem test_decode_getRotated :
    decode (0b00110011#8 ++ 0#1 ++ 0#7 ++ 0#8 ++ 0#8 ++ 0#8 ++ 0#8 ++ 0#16) = .ok .getRotated := by rfl

theorem test_decode_init :
    decode (0b01000000#8 ++ 0#1 ++ 0#7 ++ 0#8 ++ 0#8 ++ 0#8 ++ 0#8 ++ 0#16) = .ok (.init false) := by rfl

theorem test_decode_flush :
    decode (0b01000001#8 ++ 0#1 ++ 0#7 ++ 0#8 ++ 0#8 ++ 0#8 ++ 0#8 ++ 0#16) = .ok .flush := by rfl

/-- V-X2, V-X3: unassigned opcodes. -/
theorem test_decode_illegal : decode 0x0200000000000000#64 = .error .illegalOp ∧
    decode 0xFF00000000000000#64 = .error .illegalOp := ⟨rfl, rfl⟩

/-- V-X4, V-X5, V-X8, V-T8: reserved bits. -/
theorem test_decode_reserved :
    decode 0x1001000000000000#64 = .error .rsvNonzero ∧ decode 0x1180000000000001#64 = .error .rsvNonzero ∧
      decode 0x0100000000000001#64 = .error .rsvNonzero ∧ decode 0x3200000000000002#64 = .error .rsvNonzero :=
  ⟨rfl, rfl, rfl, rfl⟩

/-- The encoder, on words of 95_test_vectors.md: V-B14, V-L9, V-C9, V-T1. -/
theorem test_encode :
    encode (.drawBitmap 0 0 10 2 0x0100 .white) = 0x148000000A020100#64 ∧
      encode (.drawLine 120 10 135 12 .white) = 0x2080780A870C0000#64 ∧
        encode (.drawCircle 64 32 10 .white) = 0x238040200A000000#64 ∧ encode (.setRotated true) = 0x3200000000000001#64 := by
  decide

/-! ## Commands -/

/-- V-X1. -/
theorem test_nop : nextOf (exec .nop fresh) = some fresh := by decide

/-- V-X7. -/
theorem test_clearErr : (nextOf (exec .clearErr { fresh with err := 3#4 })).map (·.err) = some 0#4 := by decide

/-- V-B1, V-B5: the other seven bits are kept. -/
theorem test_setPixel :
    fbAfter (.setPixel 3 10 .white) (withFb [(131, 0x00#8)]) = some [(131, 0x04#8)] ∧
      fbAfter (.setPixel 3 10 .black) (withFb [(131, 0xFF#8)]) = some [(131, 0xFB#8)] := by decide

/-- V-B2, V-B3: the last byte, and x = WIDTH. -/
theorem test_setPixel_edges :
    fbAfter (.setPixel 127 63 .white) (withFb [(1023, 0x00#8)]) = some [(1023, 0x80#8)] ∧
      fbAfter (.setPixel 128 0 .white) (withFb [(128, 0x00#8)]) = some [(128, 0x00#8)] := by decide

/-- 40_bitpacker.md R92: four bytes of a slim panel, whatever they held. -/
theorem test_fill :
    fbAfter (.fill .white) slimFb = some [(0, 0xFF#8), (1, 0xFF#8), (2, 0xFF#8), (3, 0xFF#8)] ∧
      fbAfter (.fill .black) (State.resetWith slim) = some [(0, 0x00#8), (1, 0x00#8), (2, 0x00#8), (3, 0x00#8)] := by
  decide

/-- V-B8, V-B9, V-B10. -/
theorem test_readPixel :
    resultAfter (.readPixel 3 10) (withFb [(131, 0x04#8)]) = some 0x00000003#32 ∧
      resultAfter (.readPixel 3 10) (withFb [(131, 0x00#8)]) = some 0x00000002#32 ∧
        resultAfter (.readPixel 128 0) { fresh with result := 7#32 } = some 0x00000000#32 := by decide

/-- V-B11, V-B13. -/
theorem test_readByte :
    resultAfter (.readByte 131) (withFb [(131, 0x04#8)]) = some 0x00000104#32 ∧
      resultAfter (.readByte 1024) { fresh with result := 7#32 } = some 0x00000000#32 := by decide

/-- V-B14. -/
theorem test_drawBitmap :
    fbAfter (.drawBitmap 0 0 10 2 0x0100 .white)
        { withFb (zeros 0 10) with src := bytesFrom 0x0100 [0xC1#8, 0x80#8, 0x00#8, 0x40#8] } =
      some (bytesFrom 0 [0x01#8, 0x01#8, 0x00#8, 0x00#8, 0x00#8, 0x00#8, 0x00#8, 0x01#8, 0x01#8, 0x02#8]) := by decide

/-- V-B16: the source address wraps. -/
theorem test_drawBitmap_wraps :
    fbAfter (.drawBitmap 0 60 8 2 0xFFFF .white)
        { withFb (zeros 896 8) with src := [(0x0000, 0x01#8), (0xFFFF, 0x80#8)] } =
      some (bytesFrom 896 [0x10#8, 0x00#8, 0x00#8, 0x00#8, 0x00#8, 0x00#8, 0x00#8, 0x20#8]) := by decide

/-- V-L4, V-L4r: not symmetric in the endpoints. -/
theorem test_drawLine :
    fbAfter (.drawLine 0 0 1 2 .white) (withFb (zeros 0 2)) = some (bytesFrom 0 [0x03#8, 0x04#8]) ∧
      fbAfter (.drawLine 1 2 0 0 .white) (withFb (zeros 0 2)) = some (bytesFrom 0 [0x01#8, 0x06#8]) := by decide

/-- V-L3, V-L5: the walks in order. -/
theorem test_lineWalk :
    lineWalk 0 0 5 2 = [(5, 2), (0, 0), (1, 0), (2, 1), (3, 1), (4, 2)] ∧
      lineWalk 0 0 2 5 = [(2, 5), (0, 0), (0, 1), (1, 2), (1, 3), (2, 4)] := by decide

/-- V-R1. -/
theorem test_drawRect :
    fbAfter (.drawRect 1 1 4 3 .white) (withFb (zeros 1 4)) = some (bytesFrom 1 [0x0E#8, 0x0A#8, 0x0A#8, 0x0E#8]) := by
  decide

/-- V-R3: corners reordered, bounds inclusive; V-R4: clipped at the last byte. -/
theorem test_fillRect :
    fbAfter (.fillRect 4 3 1 1 .white) (withFb (zeros 1 4)) = some (bytesFrom 1 [0x0E#8, 0x0E#8, 0x0E#8, 0x0E#8]) ∧
      fbAfter (.fillRect 126 62 130 66 .white) (withFb (zeros 1022 2)) = some (bytesFrom 1022 [0xC0#8, 0xC0#8]) := by
  decide

/-- The walk's states of 95_test_vectors.md 2.4, r = 4. -/
theorem test_circleStates :
    (circleStates 4).map (fun s => (s.x, s.y, s.err)) =
      [(-4, 0, -6), (-4, 1, -3), (-3, 2, -3), (-2, 3, 1), (-1, 4, 9), (0, 4, 10)] := by decide

/-- V-C1, V-C3: an outline, and one clipped at the origin. -/
theorem test_drawCircle :
    fbAfter (.drawCircle 5 5 2 .white) (withFb (zeros 3 5)) =
        some (bytesFrom 3 [0x70#8, 0x88#8, 0x88#8, 0x88#8, 0x70#8]) ∧
      fbAfter (.drawCircle 0 0 2 .white) (withFb (zeros 0 3)) = some (bytesFrom 0 [0x04#8, 0x04#8, 0x03#8]) := by decide

/-- V-C2, V-C6: discs. -/
theorem test_fillCircle :
    fbAfter (.fillCircle 5 5 2 .white) (withFb (zeros 3 5)) =
        some (bytesFrom 3 [0x70#8, 0xF8#8, 0xF8#8, 0xF8#8, 0x70#8]) ∧
      fbAfter (.fillCircle 0 0 3 .white) (withFb (zeros 0 4)) = some (bytesFrom 0 [0x0F#8, 0x0F#8, 0x07#8, 0x03#8]) := by
  decide

/-- V-T1, V-T4, V-T5: rotated. -/
theorem test_setCursor_rotated :
    (nextOf (exec (.setCursor 10 20) { fresh with rotation := .rotated180 })).map (fun t => (t.cursorX, t.cursorY)) =
        some (118#16, 43#16) ∧
      (nextOf (exec (.setCursor 255 255) { fresh with rotation := .rotated180 })).map (fun t => (t.cursorX, t.cursorY)) =
        some (0xFF81#16, 0xFF40#16) := by decide

/-- V-T3: the offset is taken off. -/
theorem test_setCursor_offset :
    (nextOf (exec (.setCursor 0 0) { fresh with cfg := { cfg with xOffset := 2#8 } })).map (fun t => (t.cursorX, t.cursorY)) =
      some (0xFFFE#16, 0x0000#16) := by decide

/-- V-T1, V-T5. -/
theorem test_getCursor :
    resultAfter .getCursor { fresh with cursorX := 118#16, cursorY := 43#16 } = some 0x002B0076#32 ∧
      resultAfter .getCursor { fresh with cursorX := 0xFF81#16, cursorY := 0xFF40#16 } = some 0xFF40FF81#32 := by decide

/-- V-T1, V-T7: the cursor is not transformed again. -/
theorem test_setRotated :
    (nextOf (exec (.setRotated true) { fresh with cursorX := 10#16 })).map (fun t => (t.rotation, t.cursorX)) =
        some (.rotated180, 10#16) ∧
      (nextOf (exec (.setRotated false) { fresh with rotation := .rotated180 })).map (·.rotation) = some .normal := by decide

/-- V-T9, and the example of 42_transforms.md R131. -/
theorem test_getRotated :
    resultAfter .getRotated fresh = some 0#32 ∧
      resultAfter .getRotated { fresh with rotation := .rotated180 } = some 1#32 := by decide

/-- V-S1: the messages in order, PSTATE Resetting until they are accepted. -/
theorem test_init :
    (nextOf (exec (.init true) fresh)).map (fun t => (t.outq.map (·.msg), t.pstate, t.txBound)) =
      some
        ([⟨.reset, [0x00#8]⟩, ⟨.delay, [0x0A#8]⟩, ⟨.reset, [0x01#8]⟩, ⟨.delay, [0x0A#8]⟩, ⟨.writeCommand, [0xAE#8]⟩,
           ⟨.writeCommand, [0xAF#8]⟩], .resetting, true) := by decide

/-- V-S2, V-S3: I2C has no reset sequence; with no transport nothing is emitted and PSTATE is Ready at once. -/
theorem test_init_others :
    (nextOf (exec (.init true) { fresh with cfg := { cfg with transport := .i2c } })).map (fun t => (t.outq.length, t.pstate)) =
        some (2, .configuring) ∧
      (nextOf (exec (.init false) fresh)).map (fun t => (t.outq, t.pstate, t.status)) = some ([], .ready, 0x00000006#32) := by
  decide

/-- V-S5: NOT_READY. -/
theorem test_flush_rejected :
    (nextOf (exec .flush fresh)).map (fun t => (t.err, t.outq, t.status)) = some (3#4, [], 0x00000300#32) := by decide

/-- 43_sequencer.md R142 and V-S9's column commands, on four pages of one byte. -/
theorem test_flush :
    (nextOf (exec .flush { slimFb with txBound := true, pstate := .ready })).map (fun t => t.outq.map (·.msg)) =
      some
        [⟨.writeCommand, [0xB0#8]⟩, ⟨.writeCommand, [0x02#8]⟩, ⟨.writeCommand, [0x12#8]⟩, ⟨.writeData, [0x11#8]⟩,
         ⟨.writeCommand, [0xB1#8]⟩, ⟨.writeCommand, [0x02#8]⟩, ⟨.writeCommand, [0x12#8]⟩, ⟨.writeData, [0x22#8]⟩,
         ⟨.writeCommand, [0xB2#8]⟩, ⟨.writeCommand, [0x02#8]⟩, ⟨.writeCommand, [0x12#8]⟩, ⟨.writeData, [0x33#8]⟩,
         ⟨.writeCommand, [0xB3#8]⟩, ⟨.writeCommand, [0x02#8]⟩, ⟨.writeCommand, [0x12#8]⟩, ⟨.writeData, [0x44#8]⟩] := by
  decide

/-! ## Steps -/

/-- V-X2, V-X4, V-X6, V-X8: command errors, the first one kept. -/
theorem test_errors :
    errAfter (submitted 0x0200000000000000#64) = some 1#4 ∧ errAfter (submitted 0x1001000000000000#64) = some 2#4 ∧
      errAfter { submitted 0x0200000000000000#64 with err := 3#4 } = some 3#4 ∧
        errAfter (submitted 0x0100000000000001#64) = some 2#4 := by decide

/-- The command placed at reset is the one the next step runs, and it empties PENDING. -/
theorem test_withFetchWord :
    (nextOf (step (fresh.withFetchWord 64 0x3200000000000001))).map (fun t => (t.rotation, t.pending, t.schedule)) =
      some (.rotated180, none, []) := by decide

/-- The word of the table, with the bits above its `nbits` zero. -/
theorem test_decodeTableWord :
    decodeTableWord 64 0x4100000000000000 = some .flush ∧ decodeTableWord 8 0x1FF = none ∧
      decodeTableWord 64 0x4200000000000000 = none := by decide

/-- 30_encoding.md R88: a poll that reads BUSY = 0, then RESULT; one that reads BUSY = 1 is made again. -/
theorem test_collect :
    (nextOf (step { fresh with schedule := [.collect] })).map (·.schedule) = some [.host (.read 0x100C 32)] ∧
      (nextOf (step { submitted 0#64 with schedule := [.collect] })).map (·.schedule) =
        some [.progress, .collect] := by decide

/-- V-X10, V-X11, V-X12: the host reads CONFIG, CONFIG2 and STATUS. -/
theorem test_hostReads :
    (nextOf (step { fresh with schedule := [.host (.read 0x1010 32)] })).map (·.hostReads) = some [⟨0x10, 0x01004080#32⟩] ∧
      (nextOf (step { fresh with schedule := [.host (.read 0x1014 32)] })).map (·.hostReads) = some [⟨0x14, 0#32⟩] ∧
        (nextOf (step { fresh with schedule := [.host (.read 0x1008 32)] })).map (·.hostReads) = some [⟨0x08, 0#32⟩] := by
  decide

/-- V-X9: the write lands while BUSY = 1, or after. -/
theorem test_overrun :
    (nextOf (step { submitted 0#64 with schedule := [.host (.write 0x1004 32 0x10800000#32)] })).map
        (fun t => (t.err, t.pending, t.cmd1)) = some (4#4, some 0#64, 0x10800000#32) ∧
      (nextOf (step { fresh with schedule := [.host (.write 0x1004 32 0x10800000#32)] })).map
        (fun t => (t.err, t.pending, t.busy)) = some (0#4, some 0x1080000000000000#64, true) := by decide

/-- 20_memory.md R53: another width, another offset, another address. -/
theorem test_stuckAccess :
    (nextOf (step { fresh with schedule := [.host (.read 0x1008 8)] })).map (fun t => (t.hostStuck, t.hostReads)) =
        some (true, []) ∧
      (nextOf (step { fresh with schedule := [.host (.write 0x1002 32 9#32)] })).map (fun t => (t.hostStuck, t.cmd0)) =
        some (true, 0#32) ∧
        (nextOf (step { fresh with schedule := [.host (.read 0x1020 32)] })).map (·.hostStuck) = some true := by decide

/-- 60_exceptions.md R172: the host alone is stuck; the engine goes on, and with nothing left to do there is no step. -/
theorem test_stuckHost :
    (nextOf (step { fresh with hostStuck := true, schedule := [.host (.write 0x1000 32 9#32)] })).map (·.cmd0) =
        some 0#32 ∧
      (nextOf (step { submitted 0x3200000000000001#64 with hostStuck := true })).map (·.rotation) = some .rotated180 ∧
        faultOf (step { fresh with hostStuck := true }) = some .hostStuck := by decide

/-- The note after V-S10: PSTATE goes to Configuring with the fourth message and to Ready, BUSY falling, with the last. -/
theorem test_adapterAccepts :
    (nextOf (step { fresh with
        busy := true, pstate := .resetting, schedule := [.adapter true]
        outq := [⟨.reset, ⟨.delay, [10#8]⟩⟩, ⟨.config, ⟨.writeCommand, [0xAE#8]⟩⟩] })).map (fun t => (t.pstate, t.busy)) =
        some (.configuring, true) ∧
      (nextOf (step { fresh with
        busy := true, pstate := .configuring, schedule := [.adapter false]
        outq := [⟨.config, ⟨.writeCommand, [0xAF#8]⟩⟩] })).map (fun t => (t.pstate, t.busy, t.accepted)) =
        some (.ready, false, [⟨⟨.writeCommand, [0xAF#8]⟩, false⟩]) := by decide

/-- 43_sequencer.md R139, example: after the last acceptance BUSY is 0; a command with no message finishes alone. -/
theorem test_finish :
    (nextOf (step { fresh with busy := true, schedule := [.engine] })).map (·.busy) = some false := by decide

/-- A source byte written while a command waits leaves the old byte in the race (20_memory.md R64). -/
theorem test_srcRace :
    (nextOf (step { submitted 0#64 with src := [(5, 0xAA#8)], schedule := [.srcWrite 5#16 0xBB#8] })).map
      (fun t => (t.src, t.srcRace)) = some ([(5, 0xBB#8)], [(5, 0xAA#8)]) := by decide

/-! ## The assembler -/

/-- 30_encoding.md R81, R82, R86, and a listing line of 95_test_vectors.md. -/
theorem test_assembler :
    assembleProgram ["CLEAR", "CLR_PIXEL 3, 0x0A   ; a comment"] =
      .ok [0x1100000000000000#64, 0x1000030A00000000#64] := by rfl

theorem test_assembler_polyline :
    assembleLine "DRAW_POLYLINE WHITE, (0, 0), (3, 3), (5, 2)" =
      .ok [.drawLine 0 0 3 3 .white, .drawLine 3 3 5 2 .white] := by rfl

theorem test_assembler_refuses :
    assembleLine "SET_PIXEL 256, 0, WHITE" = .error .doesNotFit ∧ assembleLine "SET_ROTATED" = .error .wrongOperands ∧
      assembleLine "write_char 65" = .error (.excluded "write_char") := ⟨rfl, rfl, rfl⟩

theorem test_listing :
    listingLine (.drawBitmap 0 0 10 2 256 .white) = "148000000A020100  DRAW_BITMAP 0, 0, 10, 2, 256, WHITE" := by decide

/-! ## Witnesses: the hypotheses of the statements can be met, each clause at a boundary of its range -/

theorem test_witness_DecodeOfEncodeIsTheCommand :
    (Instr.drawBitmap 255 255 255 255 65535 .white).wellFormed = true ∧ (Instr.readByte 65535).wellFormed = true := by decide

theorem test_witness_EncodeOfDecodedIsTheWord :
    decode 0x1480FFFFFFFFFFFF#64 = .ok (.drawBitmap 255 255 255 255 65535 .white) := by rfl

theorem test_witness_WordSelectsItsOnlyRow :
    0x1080FFFF00000000#64 &&& Opcode.setPixel.mask = Opcode.setPixel.matchWord ∧
      (∀ o : Opcode, o.byte ≠ opField 0x4200000000000000#64) ∧
        Opcode.fill.byte = opField 0x1100800000000000#64 ∧
          0x1100800000000000#64 &&& (Opcode.fill.mask &&& 0x00FFFFFFFFFFFFFF#64) ≠ 0#64 :=
  ⟨by decide, fun o => by cases o <;> decide, by decide, by decide⟩

/-- The three forms of the engine's turn. -/
theorem test_witness_StepExecutesThePendingCommand :
    decode 0x3300000000000000#64 = .ok .getRotated ∧
      EnginesTurn (submitted 0x3300000000000000#64) [] ∧
        EnginesTurn { submitted 0x3300000000000000#64 with schedule := [.progress, .engine] } [.engine] ∧
          EnginesTurn { submitted 0x3300000000000000#64 with schedule := [] } [] ∧
            ∃ t, exec .getRotated { submitted 0x3300000000000000#64 with schedule := [] } = .next t :=
  ⟨rfl, .inl rfl, .inr (.inl rfl), .inr (.inr ⟨rfl, rfl⟩), _, rfl⟩

theorem test_witness_IllegalOpcodeOnlyRecordsItsCode :
    (submitted 0x1500000000000000#64).pending = some 0x1500000000000000#64 ∧
      EnginesTurn (submitted 0x1500000000000000#64) [] ∧ ∀ o : Opcode, o.byte ≠ opField 0x1500000000000000#64 :=
  ⟨rfl, .inl rfl, fun o => by cases o <;> decide⟩

theorem test_witness_ReservedBitOnlyRecordsItsCode :
    (submitted 0x1001000000000000#64).pending = some 0x1001000000000000#64 ∧
      EnginesTurn (submitted 0x1001000000000000#64) [] ∧ Opcode.setPixel.byte = opField 0x1001000000000000#64 ∧
        0x1001000000000000#64 &&& Opcode.setPixel.rsvMask ≠ 0#64 := ⟨rfl, .inl rfl, by decide, by decide⟩

theorem test_witness_NopAndClearErr :
    opField 0x0000000000000001#64 = 0x00#8 ∧ opField 0x0180000000000000#64 = 0x01#8 := by decide

/-- Every row's words can be met (SelectedBy), operands at their greatest. -/
theorem test_witness_SelectedBy :
    0x1080FFFF00000000#64 &&& 0xFF7F0000FFFFFFFF#64 = 0x1000000000000000#64 ∧
      0x2080FFFFFFFF0000#64 &&& 0xFF7F00000000FFFF#64 = 0x2000000000000000#64 ∧
        0x2480FFFFFF000000#64 &&& 0xFF7F000000FFFFFF#64 = 0x2400000000000000#64 ∧
          0x4000000000000001#64 &&& 0xFFFFFFFFFFFFFFFE#64 = 0x4000000000000000#64 := by decide

/-- The last pixel is in range; one column or one row further is not (SET_PIXEL, READ_PIXEL, DRAW_BITMAP, circles). -/
theorem test_witness_origins :
    (127 < fresh.cfg.width ∧ 63 < fresh.cfg.height) ∧ 128 ≥ fresh.cfg.width ∧ 64 ≥ fresh.cfg.height := by decide

/-- The last byte and the first index that names none (READ_BYTE, FILL, the packing). -/
theorem test_witness_indices :
    1023 < fresh.cfg.width * fresh.cfg.height / 8 ∧ fresh.cfg.width * fresh.cfg.height / 8 ≤ 1024 ∧
      fresh.cfg.fbLen = 1024 := by decide

/-- A bitmap of one byte, in two source memories that differ elsewhere, and one of two rows of two bytes, which wraps. -/
theorem test_witness_DrawBitmapReadsEachSourceByteOnce :
    Fits8 255 ∧ bitmapReads 8 1 0xFFFF = [0xFFFF] ∧ bitmapReads 10 2 0xFFFD = [0xFFFD, 0xFFFE, 0xFFFF, 0x0000] ∧
      (∀ a ∈ bitmapReads 8 1 0xFFFF,
        State.srcRead { ({ fresh with src := [(0xFFFF, 1#8)] } : State) with src := [(0, 2#8), (0xFFFF, 1#8)], srcRace := [] } a =
          State.srcRead { fresh with src := [(0xFFFF, 1#8)] } a) := by decide

theorem test_witness_SourceReadIsOldOrNewByte :
    (submitted 0#64).pending.isSome = true ∧ fresh.pending.isSome = false ∧ (0xFFFF#16 : BitVec 16) ≠ 0#16 ∧
      (submitted 0#64).srcOlds 0xFFFF = [] := by decide

/-- Distinct endpoints, and each of the three straight forms. -/
theorem test_witness_lines :
    ((0, 0) : Nat × Nat) ≠ (255, 255) ∧ absDiff 0 255 = absDiff 255 0 ∧ absDiff 3 3 = absDiff 7 7 := by decide

theorem test_witness_CircleWalkEndsAtTheTop : Fits8 0 ∧ Fits8 255 := by decide

theorem test_witness_SetCursorStoresTheTransformedPoint :
    Fits8 255 ∧ ({ fresh with rotation := .rotated180 } : State).rotation = .rotated180 ∧ fresh.rotation = .normal := by
  decide

/-- FLUSH rejected, Ready, allowed by the policy, and with a transport bound. -/
theorem test_witness_flush :
    (fresh.pstate ≠ .ready ∧ fresh.cfg.flushBeforeReady = .reject) ∧ ({ fresh with pstate := .ready } : State).pstate = .ready ∧
      ({ fresh with cfg := { cfg with flushBeforeReady := .emit } } : State).cfg.flushBeforeReady = .emit ∧
        ({ fresh with pstate := .ready, txBound := true } : State).txBound = true := by decide

/-- Commands answer next states (the whole-machine rules about commands), INIT and another among them. -/
theorem test_witness_commands :
    (∃ t, exec .flush fresh = .next t) ∧ (∃ t, exec (.init true) fresh = .next t) ∧
      (∃ t, exec (.drawRect 0 0 255 255 .black) fresh = .next t) ∧ Instr.nop ≠ .flush ∧ ∀ b, Instr.nop ≠ .init b :=
  ⟨⟨_, rfl⟩, ⟨_, rfl⟩, ⟨_, rfl⟩, by decide, fun b => by cases b <;> decide⟩

/-- A command that changes a bit (the access matrix): the last pixel's, in the last byte. -/
theorem test_witness_CommandsWriteOnlyTheirRowOfTheMatrix :
    ∃ t, exec (.setPixel 127 63 .white) (withFb [(1023, 0x00#8)]) = .next t ∧
      (t.fbRead 1023).getLsbD 7 ≠ ((withFb [(1023, 0x00#8)]).fbRead 1023).getLsbD 7 :=
  ⟨_, rfl, by decide⟩

/-- A configuration byte left to accept. -/
def queued : State :=
  { fresh with
    busy := true
    pstate := .configuring
    txBound := true
    outq := [⟨.config, ⟨.writeCommand, [0xAE#8]⟩⟩] }

/-- The invariant at reset, with a command submitted, and with a message queued. -/
theorem test_witness_Inv_fresh : Inv fresh := by decide

theorem test_witness_Inv_submitted : Inv (submitted 0x4000000000000001#64) := by decide

theorem test_witness_Inv_queued : Inv queued := by decide

theorem test_witness_EveryStepKeepsTheInvariant :
    (∃ t, step fresh = .next t) ∧ (∃ t, step (submitted 0x4000000000000001#64) = .next t) ∧ ∃ t, step queued = .next t :=
  ⟨⟨_, rfl⟩, ⟨_, rfl⟩, _, rfl⟩

theorem test_witness_NotBusyMeansEverythingIsComplete : Inv fresh ∧ fresh.busy = false := by decide

/-- A step with ERR set, and CLEAR_ERR pending. -/
theorem test_witness_ErrorCodeIsSticky :
    ({ submitted 0x0100000000000000#64 with err := 4#4 } : State).err ≠ 0#4 ∧
      (∃ t, step { submitted 0x0100000000000000#64 with err := 4#4 } = .next t) ∧
        decode 0x0100000000000000#64 = .ok .clearErr := ⟨by decide, ⟨_, rfl⟩, rfl⟩

/-- A step that is no block reset and runs no INIT (OnlyTheirCommandsWrite, ProtocolStateMovesForward, output order). -/
theorem test_witness_wholeMachine :
    (submitted 0x30000A1400000000#64).schedule.head? ≠ some .blockReset ∧
      (∃ t, step (submitted 0x30000A1400000000#64) = .next t ∧ t.cursorX ≠ fresh.cursorX) ∧
        ∀ w b, (submitted 0x30000A1400000000#64).pending = some w → decode w ≠ .ok (.init b) := by
  refine ⟨by decide, ⟨_, rfl, by decide⟩, fun w b h => ?_⟩
  obtain rfl : 0x30000A1400000000#64 = w := by simpa [submitted] using h
  cases b <;> decide

theorem test_witness_BlockResetAbandonsTheCommand :
    ({ submitted 0x1180000000000000#64 with schedule := [.blockReset] } : State).schedule = .blockReset :: [] := rfl

/-- The first and the last register of the window, read and written, not busy and busy; the host is not stuck. -/
theorem test_witness_window :
    fresh.hostStuck = false ∧ (submitted 0#64).hostStuck = false ∧
    (0x00 < 32 ∧ 0x00 % 4 = 0) ∧ (0x1C < 32 ∧ 0x1C % 4 = 0 ∧ 0x08 ≤ 0x1C) ∧
      ({ fresh with schedule := [.host (.read (fresh.cfg.fbpBase + 0x1C) 32)] } : State).schedule =
        .host (.read (fresh.cfg.fbpBase + 0x1C) 32) :: [] ∧
        ({ fresh with schedule := [.host (.write (fresh.cfg.fbpBase + 0x04) 32 1#32)] } : State).busy = false ∧
          ({ submitted 0#64 with schedule := [.host (.write (fresh.cfg.fbpBase + 0x04) 32 1#32)] } : State).busy = true := by
  decide

/-- Each way of not being admitted, at the edges of the window. -/
theorem test_witness_UnadmittedHostAccessIsStuck :
    (fresh.cfg.fbpBase ≤ 0x101F ∧ 0x101F < fresh.cfg.fbpBase + 32 ∧ (0x101F - fresh.cfg.fbpBase) % 4 ≠ 0) ∧
      (fresh.cfg.fbpBase ≤ 0x1000 ∧ 0x1000 < fresh.cfg.fbpBase + 32 ∧ 8 ≠ 32) ∧ 0x0FFF < fresh.cfg.fbpBase ∧
        fresh.cfg.fbpBase + 32 ≤ 0x1020 := by decide

/-- A stuck host: with each of its moves scheduled, and with none, with a command left and with nothing left to do. -/
theorem test_witness_stuckHost :
    ({ fresh with hostStuck := true, schedule := [.collect] } : State).schedule = .collect :: [] ∧
      ({ fresh with hostStuck := true, schedule := [.issue 1#64] } : State).schedule = .issue 1#64 :: [] ∧
        Idle { fresh with hostStuck := true } ∧ fresh.schedule = [] ∧
          ¬Idle { submitted 0#64 with hostStuck := true, schedule := [] } ∧
            ∃ t, step { submitted 0#64 with hostStuck := true } = .next t :=
  ⟨rfl, rfl, by decide, rfl, by decide, _, rfl⟩

theorem test_witness_ProtocolSubmitsTheWord :
    ({ fresh with schedule := [.issue 1#64] } : State).schedule = .issue 1#64 :: [] ∧
      ({ fresh with schedule := [.issue 1#64] } : State).busy = false ∧
        ({ submitted 0#64 with schedule := [.issue 1#64] } : State).busy = true ∧
          ({ fresh with schedule := [.collect] } : State).schedule = .collect :: [] ∧
            ({ fresh with schedule := [.collect] } : State).hostStuck = false ∧
              ({ submitted 0#64 with schedule := [.collect] } : State).busy = true := by decide

/-- A polite schedule, and the two states between a poll and the end of its submit. -/
theorem test_witness_PollingHostNeverOverruns :
    (HandshakeOk (submitted 0#64) ∧ PollingHost { submitted 0#64 with schedule := [.issue 1#64, .collect] } ∧
        ∃ t, step { submitted 0#64 with schedule := [.issue 1#64, .collect] } = .next t) ∧
      PollingHost { fresh with schedule := submitMoves cfg 1#64 ++ [.collect] } ∧
        PollingHost { fresh with schedule := (submitMoves cfg 1#64).tail ++ [.collect] } :=
  ⟨⟨by decide, .inl rfl, _, rfl⟩, .inr ⟨1#64, [.collect], rfl, rfl, rfl, .inl rfl⟩,
    .inr ⟨1#64, [.collect], rfl, rfl, rfl, .inr rfl⟩⟩

/-- A submitted command, and a message left to accept. -/
theorem test_witness_BusyClearsWithinTheMessagesToSend :
    HandshakeOk { submitted 0x4100000000000000#64 with schedule := [] } ∧
      HandshakeOk { fresh with busy := true, outq := [⟨.page, ⟨.writeCommand, [0xB0#8]⟩⟩] } ∧ fresh.schedule = [] := by decide

theorem test_witness_AdapterAcceptsTheHead :
    ({ fresh with schedule := [.adapter false], outq := [⟨.page, ⟨.writeCommand, [0xB0#8]⟩⟩] } : State).outq =
      ⟨.page, ⟨.writeCommand, [0xB0#8]⟩⟩ :: [] := rfl

theorem test_witness_ResultReadWhileBusyIsOldOrNew :
    HandshakeOk (submitted 0x3300000000000000#64) ∧ (submitted 0x3300000000000000#64).hostStuck = false ∧
      (submitted 0x3300000000000000#64).pending = some 0x3300000000000000#64 ∧
        decode 0x3300000000000000#64 = .ok .getRotated ∧
          ∃ t, exec .getRotated (submitted 0x3300000000000000#64) = .next t := ⟨by decide, rfl, rfl, rfl, _, rfl⟩

/-- Legal parameters at their greatest, and each that is not legal. -/
def raw : RawConfig where
  width := 128
  height := 128
  xOffset := 255
  yOffset := 255
  transport := .i2c
  i2cAddr := 127
  mirrorH := true
  mirrorV := true
  invert := true
  initSeq := []
  colStart := 127
  flushBeforeReady := .emit
  resetDelayMs := 10
  fbpBase := 0

theorem test_witness_OnlyLegalConfigurationsAreBuilt :
    (∃ c, raw.build = .ok c) ∧ { raw with width := 0 }.build = .error .width ∧ { raw with width := 129 }.build = .error .width ∧
      { raw with height := 48 }.build = .error .height ∧ { raw with xOffset := 256 }.build = .error .xOffset ∧
        { raw with yOffset := 256 }.build = .error .yOffset ∧ { raw with i2cAddr := 128 }.build = .error .i2cAddr ∧
          { raw with colStart := 128 }.build = .error .colStart ∧
            { raw with resetDelayMs := 11 }.build = .error .resetDelayMs :=
  ⟨⟨_, rfl⟩, rfl, rfl, rfl, rfl, rfl, rfl, rfl, rfl⟩

theorem test_witness_AssemblerNeverTruncates :
    expand (.command .setPixel) [.num 255, .num 255, .num 1] = .ok [.setPixel 255 255 .white] ∧
      expand (.command .setPixel) [.num 255, .num 256, .num 1] = .error .doesNotFit ∧
        expand (.command .init) [] = .ok [.init true] ∧ 1 < 2 ∧
          (∃ v ∈ [((0 : Nat), (0 : Nat)), (255, 256)], ¬(Fits8 v.1 ∧ Fits8 v.2)) ∧
            expand .drawPolyline [.colour .white, .vertex 0 0, .vertex 255 255] = .ok [.drawLine 0 0 255 255 .white] :=
  ⟨rfl, rfl, rfl, by decide, by decide, rfl⟩

theorem test_witness_PolylineJoinsConsecutiveVertices :
    (AsmOperand.num 1 = .colour .white ∨ AsmOperand.num 1 = .num (if Colour.white = .white then 1 else 0)) ∧
      ∀ v ∈ [((0 : Nat), (0 : Nat)), (255, 255)], Fits8 v.1 ∧ Fits8 v.2 := by decide

end Sys2Proof.Tests
end

section
/-! The host window: what an admitted access of a host that is not stuck does (10_state.md R22 to R29). -/

namespace Sys2Proof.Machine

/-- The aligned offsets of the window are those of its eight registers (10_state.md R22). -/
theorem window_offsets {off : Nat} (h : off < 32) (h4 : off % 4 = 0) :
    off = 0x00 ∨ off = 0x04 ∨ off = 0x08 ∨ off = 0x0C ∨ off = 0x10 ∨ off = 0x14 ∨ off = 0x18 ∨ off = 0x1C := by
  omega

/-- The register read at each admitted offset (10_state.md R22). -/
theorem State.regRead_eq (s : State) {off : Nat} (h : off < 32) (h4 : off % 4 = 0) :
    s.regRead off =
      if off = 0x00 then s.cmd0 else if off = 0x04 then s.cmd1 else if off = 0x08 then s.status
      else if off = 0x0C then s.result else if off = 0x10 then configWord s.cfg
      else if off = 0x14 then config2Word s.cfg else 0#32 := by
  rcases window_offsets h h4 with rfl | rfl | rfl | rfl | rfl | rfl | rfl | rfl <;> rfl

/-- A read-only or reserved register ignores a write (10_state.md R29). -/
theorem State.regWrite_ignored (s : State) {off : Nat} (h : 0x08 ≤ off) (v : Word32) : s.regWrite off v = s := by
  unfold regWrite
  split
  · omega
  · omega
  · rfl

/-- With BUSY = 0 a write to CMD1 submits (10_state.md R24). -/
theorem State.submit_idle {s : State} (h : s.busy = false) (v : Word32) :
    s.submit v = { s with cmd1 := v, pending := some (v ++ s.cmd0), busy := true } := by simp [submit, h]

/-- With BUSY = 1 a write to CMD1 drops the word with OVERRUN (10_state.md R24, 60_exceptions.md R157). -/
theorem State.submit_busy {s : State} (h : s.busy = true) (v : Word32) :
    s.submit v = { s with cmd1 := v, err := recordErr s.err .overrun } := by simp [submit, h]

/-- A step in which a host that is not stuck makes an access. -/
theorem step_of_host {s : State} {a : HostAccess} {rest : List Move} (hstuck : s.hostStuck = false)
    (hs : s.schedule = .host a :: rest) : step s = .next (hostMove a { s with schedule := rest }) := by
  simp [step, nextMove, hs, moveOf, hostTurn, hstuck]

/-- A step in which the host reads a register. -/
theorem step_of_hostRead {s : State} {off : Nat} {rest : List Move} (hstuck : s.hostStuck = false) (h : off < 32)
    (h4 : off % 4 = 0) (hs : s.schedule = .host (.read (s.cfg.fbpBase + off) 32) :: rest) :
    step s = .next (({ s with schedule := rest }).logRead off (s.regRead off)) := by
  rw [step_of_host hstuck hs]
  exact congrArg _ (onWindow_admitted { s with schedule := rest } h h4 _)

/-- A step in which the host writes a register. -/
theorem step_of_hostWrite {s : State} {off : Nat} {v : Word32} {rest : List Move} (hstuck : s.hostStuck = false)
    (h : off < 32) (h4 : off % 4 = 0) (hs : s.schedule = .host (.write (s.cfg.fbpBase + off) 32 v) :: rest) :
    step s = .next (({ s with schedule := rest }).regWrite off v) := by
  rw [step_of_host hstuck hs]
  exact congrArg _ (onWindow_admitted { s with schedule := rest } h h4 _)

/-- Settles O48: the read is admitted, and its value is the register's. -/
theorem hostReadsTheRegisterWindow : Obligations.HostReadsTheRegisterWindow := by
  intro s off rest hstuck h h4 hs
  rw [step_of_hostRead hstuck h h4 hs, s.regRead_eq h h4]
  rfl

/-- Settles O50: the write is admitted, and each register has its own rule. -/
theorem hostWritesCommandRegisters : Obligations.HostWritesCommandRegisters := by
  intro s off v rest hstuck h h4 hs
  rw [step_of_hostWrite hstuck h h4 hs]
  refine ⟨?_, ?_, ?_, ?_⟩
  · rintro rfl
    rfl
  · rintro rfl hbusy
    exact congrArg _ (State.submit_idle (s := { s with schedule := rest }) hbusy v)
  · rintro rfl hbusy
    exact congrArg _ (State.submit_busy (s := { s with schedule := rest }) hbusy v)
  · intro h8
    rw [State.regWrite_ignored _ h8]

/-! The register words field by field (10_state.md R25, R27, R28). -/

/-- Two fields side by side, as numbers. -/
theorem toNat_append_add {m n : Nat} (x : BitVec m) (y : BitVec n) : (x ++ y).toNat = 2 ^ n * x.toNat + y.toNat := by
  rw [BitVec.toNat_append, ← Nat.shiftLeft_add_eq_or_of_lt y.isLt, Nat.shiftLeft_eq, Nat.mul_comm]

/-- STATUS as the sum of its fields (10_state.md R25). -/
theorem State.status_toNat (s : State) :
    s.status.toNat =
      s.busy.toNat + 2 * s.pstate.bits.toNat + 8 * s.rotation.bit.toNat + 16 * s.txBound.toNat + 256 * s.err.toNat := by
  simp only [status, toNat_append_add, BitVec.toNat_ofBool]
  simp
  omega

/-- CONFIG as the sum of its fields (10_state.md R27). -/
theorem configWord_toNat (c : Config) :
    (configWord c).toNat =
      c.width + 256 * c.height + 65536 * (transportBit c.transport).toNat +
        131072 * (flushPolicyBit c.flushBeforeReady).toNat + 0x01000000 := by
  have hw : c.width % 256 = c.width := Nat.mod_eq_of_lt (by have := c.width_le; omega)
  have hh : c.height % 256 = c.height := Nat.mod_eq_of_lt (by have := c.height_eq; omega)
  simp only [configWord, toNat_append_add, BitVec.toNat_ofNat]
  simp [hw, hh]
  omega

/-- CONFIG2 as the sum of its fields (10_state.md R28). -/
theorem config2Word_toNat (c : Config) :
    (config2Word c).toNat = c.xOffset.toNat + 256 * c.yOffset.toNat + 65536 * c.colStart.toNat := by
  simp only [config2Word, toNat_append_add]
  simp
  omega

/-- Settles O49: each word is the sum of its fields, and each field has the value that its code says. -/
theorem statusAndConfigHaveTheirFields : Obligations.StatusAndConfigHaveTheirFields := by
  intro s
  rw [s.status_toNat, configWord_toNat, config2Word_toNat]
  refine ⟨?_, ?_, rfl⟩
  · cases s.busy <;> cases s.pstate <;> cases s.rotation <;> cases s.txBound <;> rfl
  · cases s.cfg.transport <;> cases s.cfg.flushBeforeReady <;> rfl

/-! Reset (10_state.md R40). -/

/-- Settles O39: nothing is queued, pending or written. -/
theorem resetMeetsTheInvariant : Obligations.ResetMeetsTheInvariant := by
  intro cfg
  have hmem : MemoryOk (State.resetWith cfg) := by simp [MemoryOk, State.resetWith]
  have hshake : HandshakeOk (State.resetWith cfg) := by simp [HandshakeOk, State.resetWith]
  have hphase : PhaseOk (State.resetWith cfg) := by simp [PhaseOk, State.resetWith]
  have hcursor : CursorOk 0#16 := by decide
  exact ⟨hmem, hshake, hphase, hcursor, hcursor, Nat.zero_le 4, by simp [State.resetWith]⟩

/-- Settles O46: each value is the one that State.resetWith writes, and no framebuffer byte is listed. -/
theorem resetLeavesTheResetValues : Obligations.ResetLeavesTheResetValues := by
  intro cfg
  exact ⟨rfl, rfl, rfl, rfl, rfl, rfl, rfl, rfl, rfl, rfl, rfl, rfl, rfl, fun _ => rfl⟩

/-! The engine's step (10_state.md R36). -/

/-- In the engine's turn the step executes the pending command and retires it. -/
theorem step_executes {s t : State} {w : Word64} {i : Instr} {rest : List Move} (hp : s.pending = some w)
    (hd : decode w = .ok i) (hs : EnginesTurn s rest) (ht : exec i { s with schedule := rest } = .next t) :
    step s = .next t.retire := (step_of_enginesTurn hs hp).trans (takeCommand_ok hd ht)

/-- A whole word is its own 64 bits (20_memory.md R52). -/
@[simp] theorem tableWord_toNat (w : Word64) : tableWord 64 w.toNat = w := by
  simp [tableWord, Nat.mod_eq_of_lt w.isLt]

/-- Settles O5: withFetchWord leaves the word pending in the engine's turn, so its half is an instance of the first. -/
theorem stepExecutesThePendingCommand : Obligations.StepExecutesThePendingCommand := by
  constructor
  · intro s w i rest t hp hd hs ht
    exact step_executes hp hd hs ht
  · intro s w i t hd ht
    rw [State.withFetchWord, tableWord_toNat]
    exact step_executes (rest := s.schedule) rfl hd (.inl rfl) ht

end Sys2Proof.Machine
end

section
/-! What a command changes (10_state.md R41): its row of the access matrix, field by field. -/

namespace Sys2Proof.Machine

/-- A state that did not change meets every row. -/
theorem ChangedOnly.refl (w : Writes) (s : State) : ChangedOnly w s s := by simp [ChangedOnly]

section
variable {w : Writes} {s t : State} (h : ChangedOnly w s t)
include h

theorem ChangedOnly.fb_eq (hw : w.fb = false) : t.fb = s.fb := by simpa [hw] using congrArg State.fb h
theorem ChangedOnly.cursorX_eq (hw : w.cursor = false) : t.cursorX = s.cursorX := by
  simpa [hw] using congrArg State.cursorX h
theorem ChangedOnly.cursorY_eq (hw : w.cursor = false) : t.cursorY = s.cursorY := by
  simpa [hw] using congrArg State.cursorY h
theorem ChangedOnly.rotation_eq (hw : w.rotation = false) : t.rotation = s.rotation := by
  simpa [hw] using congrArg State.rotation h
theorem ChangedOnly.pstate_eq (hw : w.protocol = false) : t.pstate = s.pstate := by
  simpa [hw] using congrArg State.pstate h
theorem ChangedOnly.txBound_eq (hw : w.protocol = false) : t.txBound = s.txBound := by
  simpa [hw] using congrArg State.txBound h
theorem ChangedOnly.result_eq (hw : w.result = false) : t.result = s.result := by
  simpa [hw] using congrArg State.result h
theorem ChangedOnly.outq_eq (hw : w.outq = false) : t.outq = s.outq := by simpa [hw] using congrArg State.outq h
theorem ChangedOnly.fbEpoch_eq : t.fbEpoch = s.fbEpoch := by simpa using congrArg State.fbEpoch h
theorem ChangedOnly.schedule_eq : t.schedule = s.schedule := by simpa using congrArg State.schedule h

/-- A row without FB leaves every framebuffer byte. -/
theorem ChangedOnly.fbRead_eq (hw : w.fb = false) (n : Nat) : t.fbRead n = s.fbRead n := by
  rw [State.fbRead, State.fbRead, h.fb_eq hw, h.fbEpoch_eq]

end

/-- INIT, with its messages collected (43_sequencer.md R139). -/
theorem execInit_eq (bind : Bool) (s : State) :
    execInit bind s = .next
      (State.advance
        { s with
          txBound := bind
          pstate := .resetting
          outq := if bind then s.outq ++ (resetSeq s.cfg.transport).map (Tagged.mk .reset) ++
              (configSeq s.cfg.initSeq).map (Tagged.mk .config)
            else s.outq }) := by
  cases bind <;> simp [execInit, State.emitAll_eq]

/-- FLUSH is rejected, or emits its messages (43_sequencer.md R142). -/
theorem execFlush_cases {s t : State} (h : execFlush s = .next t) :
    t = s.raiseCmdError .notReady ∨ t = s.emitAll .page s.flushMessages := by
  unfold execFlush at h
  split_ifs at h
  · exact .inl (Host.Outcome.next.inj h).symm
  · exact .inr (Host.Outcome.next.inj h).symm

/-- A command whose drawing depends on where its origin lies changes nothing or what drawing changes. -/
theorem ChangedOnly.ite {w : Writes} {s t u : State} {p : Prop} [Decidable p] (ht : ChangedOnly w s t)
    (hu : ChangedOnly w s u) : ChangedOnly w s (if p then t else u) := by
  split_ifs
  · exact ht
  · exact hu

/-- Painting changes the framebuffer alone. -/
theorem ChangedOnly.paint (s : State) (pts : List (Int × Int)) (c : Colour) :
    ChangedOnly { fb := true } s (s.paint pts c) := rfl

/-- Every command changes only its row of the access matrix. -/
theorem exec_changedOnly {i : Instr} {s t : State} (h : exec i s = .next t) : ChangedOnly (writesOf i) s t := by
  cases i with
  | init bind =>
    cases (execInit_eq bind s).symm.trans h
    rfl
  | flush =>
    rcases execFlush_cases h with rfl | rfl
    · rfl
    · rw [State.emitAll_eq]
      rfl
  | drawBitmap | drawCircle | fillCircle =>
    cases h
    exact .ite (.refl _ _) (.paint _ _ _)
  | nop | clearErr | setPixel | fill | readPixel | readByte | drawLine | drawRect | fillRect | setCursor | getCursor
  | setRotated | getRotated =>
    cases h
    rfl

end Sys2Proof.Machine
end

section
/-! Where the walks stay: an axis-parallel line in the box of its endpoints (41_rasterizers.md R105), the circle walk in its
quadrant (R111), and so the points of every drawing command in the set that the spec names. -/

namespace Sys2Proof

/-- On an axis-parallel walk the error term never changes, so the walk moves along its axis towards the terminal pixel. -/
def OnAxis (x1 y1 x2 y2 : Nat) (s : LineState) : Prop :=
  ((min x1 x2 : Int) ≤ s.x ∧ s.x ≤ max x1 x2) ∧ ((min y1 y2 : Int) ≤ s.y ∧ s.y ≤ max y1 y2) ∧
    s.err = absDiff x1 x2 - absDiff y1 y2

theorem onAxis_lineStart (x1 y1 x2 y2 : Nat) : OnAxis x1 y1 x2 y2 (lineStart x1 y1 x2 y2) := by
  refine ⟨?_, ?_, rfl⟩ <;> simp only [lineStart] <;> omega

@[simp] theorem absDiff_self (a : Nat) : absDiff a a = 0 := by simp [absDiff]

theorem absDiff_pos {a b : Nat} (h : a ≠ b) : 0 < absDiff a b := by unfold absDiff; omega

/-- A horizontal walk that has not ended steps in x alone. -/
theorem lineStep_horizontal {x1 y x2 : Nat} (hx : x1 ≠ x2) {s : LineState} (he : s.err = absDiff x1 x2) :
    lineStep (lineParams x1 y x2 y) s = { s with x := s.x + if x1 < x2 then 1 else -1 } := by
  have hpos := absDiff_pos hx
  have h1 : 2 * s.err > 0 := by omega
  have h2 : ¬2 * s.err < absDiff x1 x2 := by omega
  simp [lineStep, lineParams, h1, h2]

/-- A vertical walk that has not ended steps in y alone. -/
theorem lineStep_vertical {x y1 y2 : Nat} (hy : y1 ≠ y2) {s : LineState} (he : s.err = -absDiff y1 y2) :
    lineStep (lineParams x y1 x y2) s = { s with y := s.y + if y1 < y2 then 1 else -1 } := by
  have hpos := absDiff_pos hy
  have h1 : ¬2 * s.err > -absDiff y1 y2 := by omega
  have h2 : 2 * s.err < 0 := by omega
  simp [lineStep, lineParams, h1, h2]

/-- An axis-parallel walk that has not ended steps along its axis. -/
theorem OnAxis.lineStep {x1 y1 x2 y2 : Nat} {s : LineState} (haxis : x1 = x2 ∨ y1 = y2) (h : OnAxis x1 y1 x2 y2 s)
    (hgo : ¬(s.x = x2 ∧ s.y = y2)) : OnAxis x1 y1 x2 y2 (lineStep (lineParams x1 y1 x2 y2) s) := by
  obtain ⟨hx, hy, he⟩ := h
  rcases haxis with rfl | rfl
  · rw [lineStep_vertical (by omega) (by simpa using he)]
    refine ⟨hx, ?_, he⟩
    simp only
    split_ifs <;> omega
  · rw [lineStep_horizontal (by omega) (by simpa using he)]
    refine ⟨?_, hy, he⟩
    simp only
    split_ifs <;> omega

/-- Every yielded pixel of an axis-parallel walk is one of its states. -/
theorem lineLoop_onAxis {x1 y1 x2 y2 : Nat} (haxis : x1 = x2 ∨ y1 = y2) (fuel : Nat) {s : LineState}
    (h : OnAxis x1 y1 x2 y2 s) {p : Int × Int} (hp : p ∈ lineLoop (lineParams x1 y1 x2 y2) fuel s) :
    ∃ t, OnAxis x1 y1 x2 y2 t ∧ p = (t.x, t.y) := by
  induction fuel generalizing s with
  | zero => simp [lineLoop_zero] at hp
  | succ fuel ih =>
    by_cases hend : s.x = x2 ∧ s.y = y2
    · rw [lineLoop_done hend] at hp
      simp at hp
    · rw [lineLoop_next hend] at hp
      rcases List.mem_cons.1 hp with hp | hp
      · exact ⟨s, h, hp⟩
      · exact ih (h.lineStep haxis hend) hp

/-- An axis-parallel line stays in the box of its endpoints. -/
theorem inBox_of_mem_lineWalk {x1 y1 x2 y2 : Nat} (haxis : x1 = x2 ∨ y1 = y2) {p : Nat × Nat}
    (hp : Machine.OnList (lineWalk x1 y1 x2 y2) p) : Machine.InBox x1 y1 x2 y2 p := by
  unfold Machine.InBox
  rcases List.mem_cons.1 hp with hp | hp
  · simp only [Prod.mk.injEq] at hp
    omega
  · obtain ⟨t, ⟨hx, hy, -⟩, ht⟩ := lineLoop_onAxis haxis _ (onAxis_lineStart x1 y1 x2 y2) hp
    simp only [Prod.mk.injEq] at ht
    omega

/-- The outline of DRAW_RECT lies on the boundary of its box (41_rasterizers.md R110). -/
theorem onBoxBoundary_of_mem_rectOutline {x1 y1 x2 y2 : Nat} {p : Nat × Nat}
    (hp : Machine.OnList (rectOutline x1 y1 x2 y2) p) : Machine.OnBoxBoundary x1 y1 x2 y2 p := by
  simp only [Machine.OnList, rectOutline, List.mem_append] at hp
  have hedge := hp.imp
    (Or.imp (Or.imp (inBox_of_mem_lineWalk (.inr rfl)) (inBox_of_mem_lineWalk (.inl rfl))) (inBox_of_mem_lineWalk (.inr rfl)))
    (inBox_of_mem_lineWalk (.inl rfl))
  unfold Machine.OnBoxBoundary
  unfold Machine.InBox at *
  omega

/-- The circle walk never steps down in y. -/
theorem le_circleStep_y (s : CircleState) : s.y ≤ (circleStep s).y := by
  simp only [circleStep]
  split_ifs <;> omega

theorem circleLoop_quadrant (fuel : Nat) {s : CircleState} (hx : s.x ≤ 0) (hy : 0 ≤ s.y) {t : CircleState}
    (ht : t ∈ circleLoop fuel s) : t.x ≤ 0 ∧ 0 ≤ t.y := by
  induction fuel generalizing s with
  | zero => simp [circleLoop] at ht
  | succ fuel ih =>
    rw [circleLoop_succ] at ht
    rcases List.mem_cons.1 ht with rfl | ht
    · exact ⟨hx, hy⟩
    · split_ifs at ht with hend
      · simp at ht
      · exact ih (by omega) (hy.trans (le_circleStep_y s)) ht

/-- The circle walk stays in one quadrant: x is never positive, y never negative (41_rasterizers.md R111). -/
theorem circleWalk_quadrant {r : Nat} {q : Int × Int} (hq : q ∈ circleWalk r) : q.1 ≤ 0 ∧ 0 ≤ q.2 := by
  obtain ⟨s, hs, rfl⟩ := List.mem_map.1 hq
  exact circleLoop_quadrant _ (by simp [circleStart]) (by simp [circleStart]) hs

/-- DRAW_CIRCLE's points are at the offsets of the walk (41_rasterizers.md R113). -/
theorem onCircle_of_mem_circleOutline {cx cy r : Nat} {p : Nat × Nat}
    (hp : Machine.OnList (circleOutline cx cy r) p) : Machine.OnCircle cx cy r p := by
  obtain ⟨q, hq, hp⟩ := List.mem_flatMap.1 hp
  have hquad := circleWalk_quadrant hq
  rw [mem_circlePoints] at hp
  refine ⟨q, hq, ?_, ?_⟩ <;> unfold Machine.gap <;> omega

/-- FILL_CIRCLE's points are on the spans of the walk (41_rasterizers.md R115). -/
theorem inDisc_of_mem_circleDisc {cx cy r : Nat} {p : Nat × Nat}
    (hp : Machine.OnList (circleDisc cx cy r) p) : Machine.InDisc cx cy r p := by
  obtain ⟨q, hq, hp⟩ := List.mem_flatMap.1 hp
  have hquad := circleWalk_quadrant hq
  rw [mem_circleSpans] at hp
  refine ⟨q, hq, ?_, ?_⟩ <;> unfold Machine.gap <;> omega

/-- FILL_RECT's points are in its box (41_rasterizers.md R109). -/
theorem inBox_of_mem_rectBox {x1 y1 x2 y2 : Nat} {p : Nat × Nat} (hp : Machine.OnList (rectBox x1 y1 x2 y2) p) :
    Machine.InBox x1 y1 x2 y2 p := by
  obtain ⟨px, py, hxy, h⟩ := mem_rectBox.1 hp
  simp only [Prod.mk.injEq, Nat.cast_inj] at hxy
  unfold Machine.InBox
  omega

/-- DRAW_BITMAP's points are at the set source bits (40_bitpacker.md R96). -/
theorem onBitmap_of_mem_bitmapPoints {read : Nat → Byte} {x y w h src : Nat} {p : Nat × Nat}
    (hp : Machine.OnList (bitmapPoints x y w h ((bitmapReads w h src).map read)) p) :
    Machine.OnBitmap read x y w h src p := by
  obtain ⟨px, py⟩ := p
  rw [Machine.OnList, bitmapPoints_reads] at hp
  obtain ⟨⟨j, k⟩, hjk, hp⟩ := List.mem_flatMap.1 hp
  obtain ⟨hj, hk⟩ := mem_bitmapBytes.1 hjk
  obtain ⟨i, hi, hbit⟩ := List.mem_filterMap.1 hp
  rw [mem_natRange] at hi
  simp only [byteWidth] at hj hk
  have hki : k = i / 8 := by omega
  subst hki
  rw [Option.ite_none_right_eq_some, Option.some.injEq, Prod.mk.injEq, Nat.cast_inj, Nat.cast_inj] at hbit
  obtain ⟨hset, rfl, rfl⟩ := hbit
  exact ⟨i, j, by omega, hj, rfl, hset⟩

end Sys2Proof
end

section
/-! Which framebuffer bits a command can change (10_state.md R41). -/

namespace Sys2Proof.Machine

/-- Every framebuffer bit that differs is the bit of an in-range pixel of `S`. -/
def BitsOnlyIn (S : Nat × Nat → Prop) (s t : State) : Prop :=
  ∀ n b, b < 8 → (t.fbRead n).getLsbD b ≠ (s.fbRead n).getLsbD b → InSet s.cfg S n b

/-- Bytes that read as before have no bit that differs. -/
theorem BitsOnlyIn.of_fbRead_eq {S : Nat × Nat → Prop} {s t : State} (h : ∀ n, t.fbRead n = s.fbRead n) :
    BitsOnlyIn S s t := fun n b _ hne => absurd (by rw [h n]) hne

/-- Painting changes only bits of the painted pixels. -/
theorem BitsOnlyIn.paint {S : Nat × Nat → Prop} {s : State} {pts : List (Int × Int)} {c : Colour}
    (h : ∀ p, OnList pts p → S p) : BitsOnlyIn S s (s.paint pts c) := by
  intro n b hb hne
  have hin : InSet s.cfg (OnList pts) n b := by
    by_contra hout
    exact hne (((paintedExactly_paint s pts c).2 n b hb).2 hout)
  exact hin.imp_right (h _)

/-- A command that draws only from an in-range origin. -/
theorem BitsOnlyIn.paint_of_origin {S : Nat × Nat → Prop} {s : State} {x y : Nat} {pts : List (Int × Int)} {c : Colour}
    (h : ∀ p, OnList pts p → S p) :
    BitsOnlyIn (fun p => (x < s.cfg.width ∧ y < s.cfg.height) ∧ S p) s
      (if x ≥ s.cfg.width ∨ y ≥ s.cfg.height then s else s.paint pts c) := by
  split_ifs with horigin
  · exact .of_fbRead_eq fun _ => rfl
  · exact .paint fun p hp => ⟨by omega, h p hp⟩

/-- FILL changes only bits below FB_LEN. -/
theorem BitsOnlyIn.fillFb (s : State) (v : Byte) : BitsOnlyIn (fun _ => True) s (s.fillFb v) := by
  intro n b hb hne
  by_contra hout
  have hlen : ¬n < s.cfg.fbLen := fun hlen => hout ⟨hlen, trivial⟩
  exact hne (by rw [fbRead_fillFb, if_neg hlen])

/-- A command without FB in its row has no bit that differs. -/
theorem BitsOnlyIn.of_changedOnly {S : Nat × Nat → Prop} {w : Writes} {s t : State} (h : ChangedOnly w s t)
    (hw : w.fb = false) : BitsOnlyIn S s t := .of_fbRead_eq (h.fbRead_eq hw)

/-- Every command changes only the bits of the in-range pixels it draws. -/
theorem exec_bitsOnlyIn {i : Instr} {s t : State} (h : exec i s = .next t) : BitsOnlyIn (drawnPixels s i) s t := by
  cases i with
  | setPixel x y c =>
    cases h
    exact .paint fun p hp => by simpa [OnList, drawnPixels, Prod.ext_iff] using hp
  | fill c =>
    cases h
    exact .fillFb s _
  | drawBitmap =>
    cases h
    exact .paint_of_origin fun _ => onBitmap_of_mem_bitmapPoints
  | drawLine =>
    cases h
    exact .paint fun _ => id
  | drawRect =>
    cases h
    exact .paint fun _ => onBoxBoundary_of_mem_rectOutline
  | fillRect =>
    cases h
    exact .paint fun _ => inBox_of_mem_rectBox
  | drawCircle =>
    cases h
    exact .paint_of_origin fun _ => onCircle_of_mem_circleOutline
  | fillCircle =>
    cases h
    exact .paint_of_origin fun _ => inDisc_of_mem_circleDisc
  | nop | clearErr | readPixel | readByte | setCursor | getCursor | setRotated | getRotated | init | flush =>
    exact .of_changedOnly (exec_changedOnly h) rfl

/-- Settles O36: the row of the matrix, and the drawn bits. -/
theorem commandsWriteOnlyTheirRowOfTheMatrix : Obligations.CommandsWriteOnlyTheirRowOfTheMatrix :=
  fun _ _ _ h => ⟨exec_changedOnly h, exec_bitsOnlyIn h⟩

/-! What a step other than an execution leaves alone (10_state.md R26 to R37). -/

/-- PSTATE stays, or moves forward (43_sequencer.md R140). -/
def PState.Forward (p q : PState) : Prop :=
  q = p ∨ p = .resetting ∧ (q = .configuring ∨ q = .ready) ∨ p = .configuring ∧ q = .ready

/-- `Advance()` moves PSTATE forward. -/
theorem PState.forward_advance (p : PState) (q : List Tagged) :
    p.Forward (leaveConfiguring (leaveResetting p q) q) := by
  rw [advance_pstate_cases]
  unfold Forward
  cases p with
  | uninitialized | ready => exact .inl rfl
  | resetting | configuring =>
    dsimp only
    split_ifs <;> simp

/-- What no agent but the engine changes: the framebuffer and the registers of the commands; PSTATE moves forward. -/
structure RegistersKept (s t : State) : Prop where
  fb : t.fb = s.fb
  cursorX : t.cursorX = s.cursorX
  cursorY : t.cursorY = s.cursorY
  rotation : t.rotation = s.rotation
  txBound : t.txBound = s.txBound
  result : t.result = s.result
  pstate : s.pstate.Forward t.pstate

theorem RegistersKept.submit (s : State) (v : Word32) : RegistersKept s (s.submit v) := by
  unfold State.submit
  split_ifs <;> exact ⟨rfl, rfl, rfl, rfl, rfl, rfl, .inl rfl⟩

theorem RegistersKept.regWrite (s : State) (off : Nat) (v : Word32) : RegistersKept s (s.regWrite off v) := by
  unfold State.regWrite
  split
  · exact ⟨rfl, rfl, rfl, rfl, rfl, rfl, .inl rfl⟩
  · exact .submit s v
  · exact ⟨rfl, rfl, rfl, rfl, rfl, rfl, .inl rfl⟩

theorem RegistersKept.pollMove (again : Move) (next : List Move) (s : State) :
    RegistersKept s (pollMove again next s) := by
  unfold Machine.pollMove
  dsimp only
  split_ifs <;> exact ⟨rfl, rfl, rfl, rfl, rfl, rfl, .inl rfl⟩

theorem RegistersKept.accept (s : State) (ok : Bool) : RegistersKept s (s.accept ok) := by
  unfold State.accept
  split
  · exact ⟨rfl, rfl, rfl, rfl, rfl, rfl, .inl rfl⟩
  · exact ⟨rfl, rfl, rfl, rfl, rfl, rfl, PState.forward_advance _ _⟩

/-- A rejected word changes ERR and PENDING alone (60_exceptions.md R155). -/
theorem RegistersKept.raiseCmdError (s : State) (e : CmdError) : RegistersKept s (s.raiseCmdError e).retire :=
  ⟨rfl, rfl, rfl, rfl, rfl, rfl, .inl rfl⟩

/-- A step other than the block reset executes the pending command, or keeps the registers. -/
theorem step_executes_or_keeps {s t : State} (h : step s = .next t) (hreset : s.schedule.head? ≠ some .blockReset) :
    (∃ w i, s.pending = some w ∧ decode w = .ok i ∧
      ∃ u, ChangedOnly (writesOf i) { s with schedule := s.schedule.tail } u ∧ t = u.retire) ∨
      RegistersKept { s with schedule := s.schedule.tail } t := by
  cases step_cases h with
  | took w u hp hu ht =>
    rcases dispatch_cases hu with ⟨i, hd, hi⟩ | ⟨e, -, rfl⟩
    · exact .inl ⟨w, i, hp, hd, u, exec_changedOnly hi, ht⟩
    · exact .inr (ht ▸ .raiseCmdError _ _)
  | wrote off v hs ht => exact .inr (ht ▸ .regWrite _ _ _)
  | accepted ok ht => exact .inr (ht ▸ .accept _ _)
  | polledIssue w hs ht => exact .inr (ht ▸ .pollMove _ _ _)
  | polledCollect hs ht => exact .inr (ht ▸ .pollMove _ _ _)
  | reset hs ht => exact absurd hs hreset
  | finished | read | stopped | skipped | srcWritten =>
    subst t
    exact .inr ⟨rfl, rfl, rfl, rfl, rfl, rfl, .inl rfl⟩

/-- SET_CURSOR alone has the cursor in its row. -/
theorem eq_setCursor_of_writes {i : Instr} (h : (writesOf i).cursor = true) : ∃ x y, i = .setCursor x y := by
  cases i with
  | setCursor x y => exact ⟨x, y, rfl⟩
  | _ => cases h

/-- SET_ROTATED alone has the rotation in its row. -/
theorem eq_setRotated_of_writes {i : Instr} (h : (writesOf i).rotation = true) : ∃ b, i = .setRotated b := by
  cases i with
  | setRotated b => exact ⟨b, rfl⟩
  | _ => cases h

/-- INIT alone has PSTATE and TX_BOUND in its row. -/
theorem eq_init_of_writes {i : Instr} (h : (writesOf i).protocol = true) : ∃ b, i = .init b := by
  cases i with
  | init b => exact ⟨b, rfl⟩
  | _ => cases h

/-- Settles O43: a register that changed is in the row of the command executed. -/
theorem onlyTheirCommandsWriteTheRegisters : Obligations.OnlyTheirCommandsWriteTheRegisters := by
  intro s t h hreset
  rcases step_executes_or_keeps h hreset with ⟨w, i, hp, hd, u, hu, rfl⟩ | hk
  · refine ⟨fun hne => ⟨w, i, hp, hd, ?_⟩, fun hne => ?_, fun hne => ?_, fun hne => ?_, fun hne => ⟨w, i, hp, hd, ?_⟩⟩
    · exact eq_true_of_ne_false fun hw => hne (hu.fb_eq hw)
    · obtain ⟨x, y, rfl⟩ := eq_setCursor_of_writes
        (eq_true_of_ne_false fun hw => hne.elim (absurd (hu.cursorX_eq hw)) (absurd (hu.cursorY_eq hw)))
      exact ⟨w, x, y, hp, hd⟩
    · obtain ⟨b, rfl⟩ := eq_setRotated_of_writes (eq_true_of_ne_false fun hw => hne (hu.rotation_eq hw))
      exact ⟨w, b, hp, hd⟩
    · obtain ⟨b, rfl⟩ := eq_init_of_writes (eq_true_of_ne_false fun hw => hne (hu.txBound_eq hw))
      exact ⟨w, b, hp, hd⟩
    · exact eq_true_of_ne_false fun hw => hne (hu.result_eq hw)
  · exact ⟨absurd hk.fb, fun hne => hne.elim (absurd hk.cursorX) (absurd hk.cursorY), absurd hk.rotation,
      absurd hk.txBound, absurd hk.result⟩

/-- Settles O44: a command other than INIT leaves PSTATE, and the other agents move it forward. -/
theorem protocolStateMovesForward : Obligations.ProtocolStateMovesForward := by
  intro s t h hreset hinit
  rcases step_executes_or_keeps h hreset with ⟨w, i, hp, hd, u, hu, rfl⟩ | hk
  · refine .inl (hu.pstate_eq (eq_false_of_ne_true fun hw => ?_))
    obtain ⟨b, rfl⟩ := eq_init_of_writes hw
    exact hinit w b hp hd
  · exact hk.pstate

/-! The end of a command (10_state.md R36, 70_reset_and_hazards.md R186). -/

theorem length_resetSeq_le (tr : Transport) : (resetSeq tr).length ≤ 4 := by cases tr <;> decide

/-- FLUSH emits four messages a page (43_sequencer.md R142). -/
theorem State.length_flushMessages (s : State) : s.flushMessages.length = 4 * s.cfg.pages := by
  simp [flushMessages, pageMessages, List.length_flatMap, Nat.mul_comm]

/-- The most messages one command emits (43_sequencer.md R139, R142). -/
def maxMessages (cfg : Config) : Nat := max (4 * cfg.pages) (4 + cfg.initSeq.length)

/-- A command queues at most that many messages. -/
theorem exec_outq_length_le {i : Instr} {s t : State} (h : exec i s = .next t) :
    t.outq.length ≤ s.outq.length + maxMessages s.cfg := by
  unfold maxMessages
  cases i with
  | init bind =>
    cases (execInit_eq bind s).symm.trans h
    have := length_resetSeq_le s.cfg.transport
    cases bind <;> simp [configSeq]
    omega
  | flush =>
    rcases execFlush_cases h with rfl | rfl
    · simp [State.raiseCmdError]
    · rw [State.emitAll_eq]
      cases hb : s.txBound <;> simp [State.length_flushMessages]
  | _ =>
    rw [(exec_changedOnly h).outq_eq rfl]
    omega

/-- One step more at the front of a run. -/
theorem run_succ {M : Host.Core} {s t : M.State} (h : M.step s = .next t) (n : Nat) : M.run (n + 1) s = M.run n t := by
  simp only [Host.Core.run, h]

/-- With nothing scheduled and somebody left to move, a step is a progress move (70_reset_and_hazards.md R186). -/
theorem step_of_unscheduled {s : State} (hs : s.schedule = []) (h : s.allStuck = false) : step s = progressMove s := by
  simp [step, nextMove, hs, h]

/-- With no command pending and messages queued, the step accepts the head. -/
theorem step_of_queued {s : State} {m : Tagged} {q : List Tagged} (hs : s.schedule = []) (hp : s.pending = none)
    (hq : s.outq = m :: q) : step s = .next (s.accept (Config.transferOutcome s.accepted.length)) := by
  have hstuck : s.allStuck = false := by simp [State.allStuck, hq]
  rw [step_of_unscheduled hs hstuck]
  simp [progressMove, hp, hq]

/-- With no command pending and nothing queued, the step lowers BUSY. -/
theorem step_of_done {s : State} (hs : s.schedule = []) (hp : s.pending = none) (hq : s.outq = []) (hb : s.busy = true) :
    step s = .next s.finish := by
  have hstuck : s.allStuck = false := by simp [State.allStuck, hb]
  rw [step_of_unscheduled hs hstuck]
  simp [progressMove, hp, hq]

/-- An acceptance takes the head and, with the last message, lowers BUSY (43_sequencer.md R134). -/
theorem State.accept_cons {s : State} {m : Tagged} {q : List Tagged} (hp : s.pending = none) (hq : s.outq = m :: q)
    (ok : Bool) :
    (s.accept ok).outq = q ∧ (s.accept ok).pending = none ∧ (s.accept ok).schedule = s.schedule ∧
      (s.accept ok).busy = if q.isEmpty then false else s.busy := by
  simp [accept, hq, hp, busyAfterAccept]

/-- With no command pending, as many acceptances as messages are queued lead to Idle. -/
theorem run_accepts (q : List Tagged) {m : Tagged} {s : State} (hs : s.schedule = []) (hp : s.pending = none)
    (hq : s.outq = m :: q) : ∃ t, core.run (q.length + 1) s = .next t ∧ Idle t := by
  induction q generalizing m s with
  | nil =>
    obtain ⟨hq', hp', -, hb'⟩ := State.accept_cons hp hq (Config.transferOutcome s.accepted.length)
    exact ⟨_, run_succ (step_of_queued hs hp hq) 0, hb', hp', hq'⟩
  | cons m' q ih =>
    obtain ⟨hq', hp', hs', -⟩ := State.accept_cons hp hq (Config.transferOutcome s.accepted.length)
    obtain ⟨t, ht, hidle⟩ := ih (hs'.trans hs) hp' hq'
    exact ⟨t, (run_succ (step_of_queued hs hp hq) _).trans ht, hidle⟩

/-- With no command pending, the messages queued and one move more lead to Idle. -/
theorem run_drains {s : State} (hs : s.schedule = []) (hp : s.pending = none) :
    ∃ n t, n ≤ s.outq.length + 1 ∧ core.run n s = .next t ∧ Idle t := by
  cases hq : s.outq with
  | cons m q =>
    obtain ⟨t, ht, hidle⟩ := run_accepts q hs hp hq
    exact ⟨_, t, Nat.le_succ _, ht, hidle⟩
  | nil =>
    cases hb : s.busy with
    | false => exact ⟨0, s, Nat.zero_le _, rfl, hb, hp, hq⟩
    | true =>
      refine ⟨1, s.finish, le_refl _, run_succ (step_of_done hs hp hq hb) 0, ?_, hp, hq⟩
      simp [hq]

/-- A word taken queues at most the messages of one command, and leaves the schedule. -/
theorem dispatch_bounds {w : Word64} {s u : State} (h : dispatch w s = .next u) :
    u.outq.length ≤ s.outq.length + maxMessages s.cfg ∧ u.schedule = s.schedule := by
  rcases dispatch_cases h with ⟨i, -, hi⟩ | ⟨e, -, rfl⟩
  · exact ⟨exec_outq_length_le hi, (exec_changedOnly hi).schedule_eq⟩
  · exact ⟨Nat.le_add_right _ _, rfl⟩

/-- Settles O54: one move executes the command, one each accepts its messages, one lowers BUSY. -/
theorem busyClearsWithinTheMessagesToSend : Obligations.BusyClearsWithinTheMessagesToSend := by
  intro s _ hs
  cases hp : s.pending with
  | none =>
    obtain ⟨n, t, hn, hrun, hidle⟩ := run_drains hs hp
    exact ⟨n, t, by omega, hrun, hidle⟩
  | some w =>
    obtain ⟨u, hu⟩ := dispatch_next w s
    obtain ⟨hlen, hsched⟩ := dispatch_bounds hu
    have hstep : step s = .next u.retire := by
      rw [step_of_enginesTurn (.inr (.inr ⟨hs, rfl⟩)) hp, ← hs, takeCommand, hu]
    obtain ⟨n, t, hn, hrun, hidle⟩ := run_drains (s := u.retire) (hsched.trans hs) rfl
    refine ⟨n + 1, t, ?_, (run_succ hstep n).trans hrun, hidle⟩
    rw [State.retire_outq] at hn
    unfold maxMessages at hlen
    omega

end Sys2Proof.Machine
end

section
/-! The source memory and the framebuffer's layout (20_memory.md R45, R47, R64). -/

namespace Sys2Proof.Machine

/-- A source address wraps modulo 2^16 (20_memory.md R47). -/
theorem State.srcRead_add_mul (s : State) (a n : Nat) : s.srcRead (a + 65536 * n) = s.srcRead a := by
  simp only [srcRead, Nat.add_mul_mod_self_left]

/-- A write of the platform races with the submitted command for the byte it replaces (20_memory.md R64). -/
theorem State.srcOlds_srcWrite_same (s : State) (a : BitVec 16) (v : Byte) :
    (s.srcWrite a v).srcOlds a.toNat =
      if s.pending.isSome then Mem.read Config.srcContents s.src a.toNat :: s.srcOlds a.toNat
      else s.srcOlds a.toNat := by
  cases h : s.pending.isSome <;> simp [srcOlds, h]

/-- A write of the platform races at its own address only. -/
theorem State.srcOlds_srcWrite_other (s : State) {a : BitVec 16} (v : Byte) {b : Nat} (h : b ≠ a.toNat) :
    (s.srcWrite a v).srcOlds b = s.srcOlds b := by
  cases hp : s.pending.isSome <;> simp [srcOlds, hp, h.symm]

/-- Where no byte has raced, a source read is a read of the memory (20_memory.md R47). -/
theorem State.srcRead_of_srcOlds_eq_nil {s : State} {a : Nat} (ha : a < 65536) (h : s.srcOlds a = []) :
    s.srcRead a = Mem.read Config.srcContents s.src a := by
  simpa [h] using s.srcRead_mem ha

/-- Settles O17: the read gives the present byte, which is `v`, or one that has raced; elsewhere the write reaches
neither the memory nor the race. -/
theorem sourceReadIsOldOrNewByte : Obligations.SourceReadIsOldOrNewByte := by
  intro s a v n
  constructor
  · have hmem := (s.srcWrite a v).srcRead_mem a.isLt
    rw [State.srcOlds_srcWrite_same, State.srcWrite_src, Mem.read_write_same] at hmem
    rw [State.srcRead_add_mul]
    split_ifs at hmem ⊢ <;> exact hmem
  · intro b hne hold
    have hb : b.toNat ≠ a.toNat := fun h => hne (BitVec.eq_of_toNat_eq h)
    rw [State.srcRead_of_srcOlds_eq_nil b.isLt hold,
      State.srcRead_of_srcOlds_eq_nil b.isLt ((s.srcOlds_srcWrite_other v hb).trans hold), State.srcWrite_src,
      Mem.read_write_other _ _ _ hb]

/-- Settles O18: a pixel's byte and bit and a bit's pixel are inverse to each other. -/
theorem everyBitHoldsExactlyOnePixel : Obligations.EveryBitHoldsExactlyOnePixel := by
  intro c
  constructor
  · intro x y hx hy
    exact ⟨index_lt c hx hy, Nat.mod_lt _ (by norm_num), rfl, rfl⟩
  · intro i b hi hb
    obtain ⟨hx, hy⟩ := pixelOfBit_inRange c hi hb
    obtain ⟨hindex, hbit⟩ := index_pixelOfBit c i hb
    refine ⟨_, _, ⟨hx, hy, hindex, hbit⟩, ?_⟩
    rintro x' y' hx' - rfl rfl
    simp [pixelOfBit_index c y' hx']

end Sys2Proof.Machine
end

section
/-! What no step changes or drops: a stuck host (20_memory.md R53) and the emitted messages (R60). -/

namespace Sys2Proof.Machine

section
variable {w : Writes} {s t : State} (h : ChangedOnly w s t)
include h

theorem ChangedOnly.busy_eq : t.busy = s.busy := by simpa using congrArg State.busy h
theorem ChangedOnly.hostStuck_eq : t.hostStuck = s.hostStuck := by simpa using congrArg State.hostStuck h
theorem ChangedOnly.accepted_eq : t.accepted = s.accepted := by simpa using congrArg State.accepted h

end

/-- A poll changes nothing but the host's record and the schedule (30_encoding.md R88). -/
theorem pollMove_eq (again : Move) (next : List Move) (s : State) :
    ∃ ms, pollMove again next s = { s.logRead 0x08 s.status with schedule := ms } := by
  cases h : s.busy <;> simp [pollMove, h]

/-- A taken word leaves BUSY and the host alone. -/
theorem dispatch_busy_hostStuck {w : Word64} {s t : State} (h : dispatch w s = .next t) :
    t.busy = s.busy ∧ t.hostStuck = s.hostStuck := by
  rcases dispatch_cases h with ⟨i, -, hi⟩ | ⟨e, -, rfl⟩
  · exact ⟨(exec_changedOnly hi).busy_eq, (exec_changedOnly hi).hostStuck_eq⟩
  · exact ⟨rfl, rfl⟩

/-- What a write to a register does (10_state.md R22, R23, R24, R29). -/
theorem State.regWrite_cases (s : State) (off : Nat) (v : Word32) :
    s.regWrite off v = s ∨ s.regWrite off v = { s with cmd0 := v } ∨
      (s.busy = true ∧ s.regWrite off v = { s with cmd1 := v, err := recordErr s.err .overrun }) ∨
        (s.busy = false ∧ s.regWrite off v = { s with cmd1 := v, pending := some (v ++ s.cmd0), busy := true }) := by
  unfold regWrite
  split
  · exact .inr (.inl rfl)
  · by_cases h : s.busy = true
    · exact .inr (.inr (.inl ⟨h, submit_busy h v⟩))
    · have h := eq_false_of_ne_true h
      exact .inr (.inr (.inr ⟨h, submit_idle h v⟩))
  · exact .inl rfl

@[simp] theorem State.regWrite_hostStuck (s : State) (off : Nat) (v : Word32) :
    (s.regWrite off v).hostStuck = s.hostStuck := by
  rcases s.regWrite_cases off v with h | h | ⟨-, h⟩ | ⟨-, h⟩ <;> rw [h]

@[simp] theorem State.regWrite_emitted (s : State) (off : Nat) (v : Word32) :
    (s.regWrite off v).emitted = s.emitted := by
  rcases s.regWrite_cases off v with h | h | ⟨-, h⟩ | ⟨-, h⟩ <;> rw [h] <;> rfl

/-- What an acceptance does (43_sequencer.md R134, R140). -/
theorem State.accept_cases (s : State) (ok : Bool) :
    (s.outq = [] ∧ s.accept ok = s) ∨
      ∃ m q, s.outq = m :: q ∧ s.accept ok = State.advance
        { s with
          outq := q
          accepted := s.accepted ++ [⟨m.msg, ok⟩]
          busy := busyAfterAccept s.busy s.pending q } := by
  cases h : s.outq with
  | nil => exact .inl ⟨rfl, by simp [accept, h]⟩
  | cons m q => exact .inr ⟨m, q, rfl, by simp [accept, h]⟩

@[simp] theorem State.accept_hostStuck (s : State) (ok : Bool) : (s.accept ok).hostStuck = s.hostStuck := by
  rcases s.accept_cases ok with ⟨-, h⟩ | ⟨m, q, -, h⟩ <;> rw [h]
  rfl

/-- An acceptance moves a message from the queue to the record (43_sequencer.md R134). -/
@[simp] theorem State.accept_emitted (s : State) (ok : Bool) : (s.accept ok).emitted = s.emitted := by
  rcases s.accept_cases ok with ⟨-, h⟩ | ⟨m, q, hq, h⟩ <;> rw [h]
  simp [emitted, hq]

/-- No step frees a stuck host (60_exceptions.md R172). -/
theorem step_keeps_hostStuck {s t : State} (hstuck : s.hostStuck = true) (h : step s = .next t) :
    t.hostStuck = true := by
  cases step_cases h with
  | took w u hp hu ht => exact ht ▸ (dispatch_busy_hostStuck hu).2.trans hstuck
  | accepted ok ht => exact ht ▸ (State.accept_hostStuck _ ok).trans hstuck
  | wrote off v hs ht => exact ht ▸ (State.regWrite_hostStuck _ off v).trans hstuck
  | polledIssue w hs ht | polledCollect hs ht =>
    obtain ⟨ms, hms⟩ := pollMove_eq _ _ _
    exact (ht.trans hms) ▸ hstuck
  | stopped ht => exact ht ▸ rfl
  | finished | read | skipped | srcWritten | reset =>
    subst t
    exact hstuck

/-- An access outside the window, of another width or unaligned stops the host (20_memory.md R53). -/
theorem onWindow_not_admitted {s : State} {addr bits : Nat}
    (h : s.cfg.fbpBase ≤ addr ∧ addr < s.cfg.fbpBase + 32 → bits ≠ 32 ∨ (addr - s.cfg.fbpBase) % 4 ≠ 0)
    (act : Nat → State) : onWindow s addr bits act = s.stopHost := by
  rcases onWindow_cases s addr bits act with hstop | ⟨off, rfl, hoff, rfl, h4, -⟩
  · exact hstop
  · have := h ⟨by omega, by omega⟩
    omega

/-- A step in which a host that is not stuck makes an access that is not admitted. -/
theorem step_of_not_admitted {s : State} {addr bits : Nat} {v : Word32} {rest : List Move}
    (hstuck : s.hostStuck = false)
    (hs : s.schedule = .host (.read addr bits) :: rest ∨ s.schedule = .host (.write addr bits v) :: rest)
    (h : s.cfg.fbpBase ≤ addr ∧ addr < s.cfg.fbpBase + 32 → bits ≠ 32 ∨ (addr - s.cfg.fbpBase) % 4 ≠ 0) :
    step s = .next { s with schedule := rest, hostStuck := true } := by
  have hstop := onWindow_not_admitted (s := { s with schedule := rest }) h
  rcases hs with hs | hs <;> exact (step_of_host hstuck hs).trans (congrArg _ (hstop _))

/-- A stuck host's move only leaves the schedule (60_exceptions.md R172). -/
theorem step_of_stuck_host {s : State} {a : HostAccess} {w : Word64} {rest : List Move} (hstuck : s.hostStuck = true)
    (hs : s.schedule = .host a :: rest ∨ s.schedule = .issue w :: rest ∨ s.schedule = .collect :: rest) :
    step s = .next { s with schedule := rest } := by
  rcases hs with hs | hs | hs <;> simp [step, nextMove, hs, moveOf, hostTurn, hstuck]

/-- With the host stuck, nobody has a step exactly when the FBP is idle. -/
theorem allStuck_iff_idle {s : State} (hstuck : s.hostStuck = true) : s.allStuck = true ↔ Idle s := by
  simp only [State.allStuck, Idle, hstuck, Bool.true_and, Bool.and_eq_true, Option.isNone_iff_eq_none, List.isEmpty_iff,
    Bool.not_eq_true']
  tauto

/-- Whoever has something to do moves to a next state. -/
theorem progressMove_next (s : State) : ∃ t, progressMove s = .next t := by
  unfold progressMove
  split_ifs with hp hq
  · obtain ⟨w, hw⟩ := Option.isSome_iff_exists.1 hp
    obtain ⟨u, hu⟩ := dispatch_next w s
    exact ⟨u.retire, by simp only [engineMove, hw, takeCommand, hu]⟩
  · exact ⟨_, rfl⟩
  · exact ⟨_, rfl⟩

/-- Settles O51: each clause is a rule of the host's moves or of the empty schedule. -/
theorem unadmittedHostAccessIsStuck : Obligations.UnadmittedHostAccessIsStuck := by
  refine ⟨fun s addr bits v rest hstuck hs => ⟨fun hwin hbad => ?_, fun hout => ?_⟩,
    fun s a w rest => step_of_stuck_host, fun s t => step_keeps_hostStuck,
    fun s hstuck hs => ⟨fun hidle => ?_, fun hidle => ?_⟩⟩
  · exact step_of_not_admitted hstuck hs fun _ => hbad
  · exact step_of_not_admitted hstuck hs fun hwin => by omega
  · simp [step, nextMove, hs, (allStuck_iff_idle hstuck).2 hidle]
  · obtain ⟨t, ht⟩ := progressMove_next s
    have hgo : s.allStuck = false := eq_false_of_ne_true fun h => hidle ((allStuck_iff_idle hstuck).1 h)
    exact ⟨t, (step_of_unscheduled hs hgo).trans ht⟩

/-- A state whose queue has grown at its end has emitted more. -/
theorem emitted_prefix_of_outq {s t : State} (ha : t.accepted = s.accepted) (hq : s.outq <+: t.outq) :
    s.emitted <+: t.emitted := by
  rw [State.emitted, State.emitted, ha, List.prefix_append_right_inj]
  exact hq.map _

/-- A command queues its messages behind the others (43_sequencer.md R133). -/
theorem exec_outq_prefix {i : Instr} {s t : State} (h : exec i s = .next t) : s.outq <+: t.outq := by
  cases i with
  | init bind =>
    cases (execInit_eq bind s).symm.trans h
    cases bind
    · exact List.prefix_refl _
    · exact ⟨_, (List.append_assoc _ _ _).symm⟩
  | flush =>
    rcases execFlush_cases h with rfl | rfl
    · exact List.prefix_refl _
    · rw [State.emitAll_eq]
      dsimp only
      split_ifs
      · exact List.prefix_append _ _
      · exact List.prefix_refl _
  | _ => exact (exec_changedOnly h).outq_eq rfl ▸ List.prefix_refl _

/-- A taken word only adds messages at the end. -/
theorem dispatch_emitted_prefix {w : Word64} {s t : State} (h : dispatch w s = .next t) : s.emitted <+: t.emitted := by
  rcases dispatch_cases h with ⟨i, -, hi⟩ | ⟨e, -, rfl⟩
  · exact emitted_prefix_of_outq (exec_changedOnly hi).accepted_eq (exec_outq_prefix hi)
  · exact List.prefix_refl _

/-- A step other than the block reset drops, changes and reorders no message (20_memory.md R60). -/
theorem step_emitted_prefix {s t : State} (h : step s = .next t) (hreset : s.schedule.head? ≠ some .blockReset) :
    s.emitted <+: t.emitted := by
  cases step_cases h with
  | took w u hp hu ht =>
    have hgrow := dispatch_emitted_prefix hu
    exact ht ▸ hgrow
  | accepted ok ht => exact ht ▸ (State.accept_emitted _ ok).symm ▸ List.prefix_refl _
  | wrote off v hs ht => exact ht ▸ (State.regWrite_emitted _ off v).symm ▸ List.prefix_refl _
  | polledIssue w hs ht | polledCollect hs ht =>
    obtain ⟨ms, hms⟩ := pollMove_eq _ _ _
    exact (ht.trans hms) ▸ List.prefix_refl _
  | reset hs ht => exact absurd hs hreset
  | finished | read | stopped | skipped | srcWritten =>
    subst t
    exact List.prefix_refl _

/-- Settles O45: only a command adds messages, behind the others. -/
theorem outputOrderIsPreserved : Obligations.OutputOrderIsPreserved := by
  intro s t h hreset
  obtain ⟨ms, hms⟩ := step_emitted_prefix h hreset
  exact ⟨ms, hms.symm⟩

end Sys2Proof.Machine
end

section
/-! The invariant: what the state holds, and the submit handshake (20_memory.md R46, R47, 10_state.md R36,
43_sequencer.md R140). Each is kept by every step without the other. -/

namespace Sys2Proof

/-- The operands taken from a word's fields fit them (30_encoding.md R68). -/
theorem Opcode.operands_wellFormed (w : Word64) (o : Opcode) : (o.operands w).wellFormed = true := by
  have h8 : ∀ v : BitVec 8, v.toNat < 256 := fun v => v.isLt
  have h16 : ∀ v : BitVec 16, v.toNat < 65536 := fun v => v.isLt
  cases o <;> simp [Opcode.operands, Instr.wellFormed, h8, h16]

/-- A decoded command is well-formed. -/
theorem wellFormed_of_decode {w : Word64} {i : Instr} (h : decode w = .ok i) : i.wellFormed = true := by
  unfold decode at h
  split at h
  · cases h
  · split_ifs at h
    cases h
    exact Opcode.operands_wellFormed w _

namespace Machine

/-- The part of the invariant that speaks of what the state holds: every clause but the handshake. -/
structure ContentsOk (s : State) : Prop where
  memory : MemoryOk s
  phase : PhaseOk s
  cursorX : CursorOk s.cursorX
  cursorY : CursorOk s.cursorY
  err : s.err.toNat ≤ 4
  messages : ∀ m ∈ s.outq, MessageOk s.cfg m.msg

/-- The invariant is the contents and the handshake. -/
theorem inv_iff (s : State) : Inv s ↔ ContentsOk s ∧ HandshakeOk s :=
  ⟨fun ⟨hm, hh, hp, hx, hy, he, hq⟩ => ⟨⟨hm, hp, hx, hy, he, hq⟩, hh⟩,
    fun ⟨⟨hm, hp, hx, hy, he, hq⟩, hh⟩ => ⟨hm, hh, hp, hx, hy, he, hq⟩⟩

/-! ### Cursors -/

/-- Narrowing keeps a value in [-255, 255] (42_transforms.md R123, R125). -/
theorem cursorOk_ofInt {v : Int} (h : -255 ≤ v ∧ v ≤ 255) : CursorOk (BitVec.ofInt 16 v) := by
  have hv : (BitVec.ofInt 16 v).toInt = v := by
    rw [BitVec.toInt_ofInt]
    exact Int.bmod_eq_of_le (by norm_num; omega) (by norm_num; omega)
  rwa [CursorOk, hv]

theorem cursorXOf_bounds (cfg : Config) (r : Rotation) {x : Nat} (hx : Fits8 x) :
    -255 ≤ cursorXOf cfg r x ∧ cursorXOf cfg r x ≤ 255 := by
  have hw := cfg.width_pos
  have hw' := cfg.width_le
  have ho := cfg.xOffset.isLt
  cases r <;> simp only [cursorXOf] <;> omega

theorem cursorYOf_bounds (cfg : Config) (r : Rotation) {y : Nat} (hy : Fits8 y) :
    -255 ≤ cursorYOf cfg r y ∧ cursorYOf cfg r y ≤ 255 := by
  have hh := cfg.height_eq
  have ho := cfg.yOffset.isLt
  cases r <;> simp only [cursorYOf] <;> omega

/-! ### PSTATE and the queue -/

/-- No message of a phase that PSTATE has left is queued. -/
def NoLatePhase (p : PState) (q : List Tagged) : Prop :=
  (hasPhase q .reset = true → p = .resetting) ∧ (hasPhase q .config = true → p = .resetting ∨ p = .configuring)

/-- `Advance()` brings PSTATE into agreement with the queue (43_sequencer.md R140). -/
theorem phaseOk_advance {s : State} (h : NoLatePhase s.pstate s.outq) : PhaseOk s.advance := by
  obtain ⟨hr, hc⟩ := h
  rw [PhaseOk, State.advance_pstate, State.advance_outq, advance_pstate_cases]
  cases hp : s.pstate with
  | uninitialized | ready => simpa [hp] using And.intro hr hc
  | resetting | configuring =>
    dsimp only
    split_ifs <;> simp_all

/-- Taking the head leaves no late phase. -/
theorem NoLatePhase.tail {p : PState} {m : Tagged} {q : List Tagged} (h : NoLatePhase p (m :: q)) :
    NoLatePhase p q := by
  simp only [NoLatePhase, hasPhase_cons, Bool.or_eq_true] at h ⊢
  exact ⟨fun hr => h.1 (.inr hr), fun hc => h.2 (.inr hc)⟩

/-- Page messages belong to no phase. -/
theorem hasPhase_append_page (q : List Tagged) (ms : List Message) {ph : Phase} (h : ph ≠ .page) :
    hasPhase (q ++ ms.map (Tagged.mk .page)) ph = hasPhase q ph := by
  simp [hasPhase_append, hasPhase_map, h.symm]

/-! ### Messages -/

theorem messageOk_of_mem_resetSeq (cfg : Config) {tr : Transport} {m : Message} (h : m ∈ resetSeq tr) :
    MessageOk cfg m := by
  cases tr with
  | i2c => simp [resetSeq] at h
  | spi =>
    simp only [resetSeq, List.mem_cons, List.not_mem_nil, or_false] at h
    rcases h with rfl | rfl | rfl | rfl <;> simp [MessageOk]

theorem messageOk_of_mem_configSeq (cfg : Config) {bytes : List Byte} {m : Message} (h : m ∈ configSeq bytes) :
    MessageOk cfg m := by
  obtain ⟨b, -, rfl⟩ := List.mem_map.1 h
  simp [MessageOk]

theorem messageOk_of_mem_flushMessages {s : State} {m : Message} (h : m ∈ s.flushMessages) : MessageOk s.cfg m := by
  obtain ⟨p, -, hm⟩ := List.mem_flatMap.1 h
  simp only [State.pageMessages, List.mem_cons, List.not_mem_nil, or_false] at hm
  rcases hm with rfl | rfl | rfl | rfl <;> simp [MessageOk, State.pageBytes]

/-- Messages of the right form stay so with any tag. -/
theorem messageOk_of_mem_map {cfg : Config} {ph : Phase} {ms : List Message} (h : ∀ m ∈ ms, MessageOk cfg m)
    {m : Tagged} (hm : m ∈ ms.map (Tagged.mk ph)) : MessageOk cfg m.msg := by
  obtain ⟨m', hm', rfl⟩ := List.mem_map.1 hm
  exact h m' hm'

/-! ### The contents after each operation -/

section
variable {s : State} (h : ContentsOk s)
include h

theorem ContentsOk.noLatePhase : NoLatePhase s.pstate s.outq := by
  obtain ⟨hreset, -, hconfig⟩ := h.phase
  exact ⟨hreset.1, hconfig⟩

theorem ContentsOk.paint (pts : List (Int × Int)) (c : Colour) : ContentsOk (s.paint pts c) := by
  obtain ⟨hfb, hlen, hsrc⟩ := h.memory
  obtain ⟨hfb', hlen'⟩ := foldl_plotMem_ok s.cfg (Config.fbDraw s.fbEpoch) c hfb hlen pts
  exact { h with memory := ⟨hfb', hlen', hsrc⟩ }

/-- A command that draws only from an in-range origin. -/
theorem ContentsOk.paint_of_origin {p : Prop} [Decidable p] (pts : List (Int × Int)) (c : Colour) :
    ContentsOk (if p then s else s.paint pts c) := by
  split_ifs
  · exact h
  · exact h.paint pts c

theorem ContentsOk.fillFb (v : Byte) : ContentsOk (s.fillFb v) := by
  obtain ⟨hfb, hlen, hsrc⟩ := h.memory
  exact { h with memory := ⟨hfb.foldl_write v _, hlen.foldl_write v fun _ => List.mem_range.1, hsrc⟩ }

theorem ContentsOk.srcWrite (a : BitVec 16) (v : Byte) : ContentsOk (s.srcWrite a v) := by
  obtain ⟨hfb, hlen, hsrc, hsrc'⟩ := h.memory
  exact { h with memory := ⟨hfb, hlen, hsrc.write _ v, hsrc'.write a.isLt v⟩ }

theorem ContentsOk.setResult (v : Word32) : ContentsOk (s.setResult v) := { h with }

theorem ContentsOk.setCursor {x y : Nat} (hx : Fits8 x) (hy : Fits8 y) :
    ContentsOk (s.setCursor (cursorXOf s.cfg s.rotation x) (cursorYOf s.cfg s.rotation y)) :=
  { h with
    cursorX := cursorOk_ofInt (cursorXOf_bounds _ _ hx)
    cursorY := cursorOk_ofInt (cursorYOf_bounds _ _ hy) }

theorem ContentsOk.raiseCmdError (e : CmdError) : ContentsOk (s.raiseCmdError e) :=
  { h with err := recordErr_le h.err e }

theorem ContentsOk.emitFlush : ContentsOk (s.emitAll .page s.flushMessages) := by
  rw [State.emitAll_eq]
  cases hb : s.txBound with
  | false => exact { h with }
  | true =>
    refine { h with phase := ?_, messages := fun m hm => ?_ }
    · simpa only [PhaseOk, if_true, hasPhase_append_page _ _ (show Phase.reset ≠ .page by decide),
        hasPhase_append_page _ _ (show Phase.config ≠ .page by decide)] using h.phase
    · exact (List.mem_append.1 hm).elim (h.messages m) (messageOk_of_mem_map fun _ => messageOk_of_mem_flushMessages)

theorem ContentsOk.execInit {bind : Bool} {t : State} (ht : execInit bind s = .next t) : ContentsOk t := by
  cases (execInit_eq bind s).symm.trans ht
  refine { h with phase := phaseOk_advance ⟨fun _ => rfl, fun _ => .inl rfl⟩, messages := fun m hm => ?_ }
  cases bind with
  | false => exact h.messages m hm
  | true =>
    simp only [State.advance_outq, if_true, List.mem_append] at hm
    rcases hm with (hm | hm) | hm
    · exact h.messages m hm
    · exact messageOk_of_mem_map (fun _ => messageOk_of_mem_resetSeq s.cfg) hm
    · exact messageOk_of_mem_map (fun _ => messageOk_of_mem_configSeq s.cfg) hm

theorem ContentsOk.accept (ok : Bool) : ContentsOk (s.accept ok) := by
  rcases s.accept_cases ok with ⟨-, ha⟩ | ⟨m, q, hq, ha⟩ <;> rw [ha]
  · exact h
  · have hlate : NoLatePhase s.pstate (m :: q) := hq ▸ h.noLatePhase
    exact { h with
      phase := phaseOk_advance hlate.tail
      messages := fun n hn => h.messages n (hq ▸ List.mem_cons_of_mem m hn) }

theorem ContentsOk.regWrite (off : Nat) (v : Word32) : ContentsOk (s.regWrite off v) := by
  rcases s.regWrite_cases off v with hw | hw | ⟨-, hw⟩ | ⟨-, hw⟩ <;> rw [hw]
  · exact h
  · exact { h with }
  · exact { h with err := recordErr_le h.err _ }
  · exact { h with }

theorem ContentsOk.pollMove (again : Move) (next : List Move) : ContentsOk (pollMove again next s) := by
  obtain ⟨ms, hms⟩ := pollMove_eq again next s
  rw [hms]
  exact { h with }

theorem ContentsOk.blockReset : ContentsOk s.blockReset := by
  obtain ⟨-, -, hsrc⟩ := h.memory
  obtain ⟨hreset, -⟩ := (inv_iff _).1 (resetMeetsTheInvariant s.cfg)
  exact { hreset with memory := ⟨.nil, fun _ => (nomatch ·), hsrc⟩ }

/-- A command keeps the contents, where its operands fit their fields. -/
theorem ContentsOk.exec {i : Instr} {t : State} (hwf : i.wellFormed = true) (ht : exec i s = .next t) :
    ContentsOk t := by
  cases i with
  | init bind => exact h.execInit ht
  | flush =>
    rcases execFlush_cases ht with rfl | rfl
    · exact h.raiseCmdError _
    · exact h.emitFlush
  | setCursor x y =>
    cases ht
    obtain ⟨hx, hy⟩ := of_decide_eq_true hwf
    exact h.setCursor hx hy
  | setPixel | drawLine | drawRect | fillRect =>
    cases ht
    exact h.paint _ _
  | drawBitmap | drawCircle | fillCircle =>
    cases ht
    exact h.paint_of_origin _ _
  | fill =>
    cases ht
    exact h.fillFb _
  | readPixel | readByte | getCursor | getRotated =>
    cases ht
    exact h.setResult _
  | clearErr =>
    cases ht
    exact { h with err := Nat.zero_le 4 }
  | nop | setRotated =>
    cases ht
    exact { h with }

theorem ContentsOk.dispatch {w : Word64} {t : State} (ht : dispatch w s = .next t) : ContentsOk t := by
  rcases dispatch_cases ht with ⟨i, hd, hi⟩ | ⟨e, -, rfl⟩
  · exact h.exec (wellFormed_of_decode hd) hi
  · exact h.raiseCmdError _

/-- Every step keeps the contents. -/
theorem ContentsOk.step {t : State} (ht : step s = .next t) : ContentsOk t := by
  have hb : ContentsOk { s with schedule := s.schedule.tail } := { h with }
  cases step_cases ht with
  | took w u hp hu ht => exact ht ▸ { hb.dispatch hu with }
  | accepted ok ht => exact ht ▸ hb.accept ok
  | wrote off v hs ht => exact ht ▸ hb.regWrite off v
  | polledIssue w hs ht => exact ht ▸ hb.pollMove _ _
  | polledCollect hs ht => exact ht ▸ hb.pollMove _ _
  | srcWritten a v ht => exact ht ▸ hb.srcWrite a v
  | reset hs ht => exact ht ▸ hb.blockReset
  | finished | read | stopped | skipped =>
    subst t
    exact { h with }

end

/-! ### The handshake after each operation -/

/-- After a command BUSY is still 1, and nothing is pending or raced (10_state.md R36). -/
theorem handshakeOk_retire {s : State} (hb : s.busy = true) : HandshakeOk s.retire := by simp [HandshakeOk, hb]

section
variable {s : State} (h : HandshakeOk s)
include h

/-- With BUSY = 0 nothing is pending and nothing queued (20_memory.md R61). -/
theorem HandshakeOk.empty_of_not_busy (hbusy : s.busy = false) : s.pending = none ∧ s.outq = [] := by
  obtain ⟨hp, hq, -⟩ := h
  constructor
  · by_contra hne
    simp [(hp (Option.isSome_iff_ne_none.2 hne)).1] at hbusy
  · by_contra hne
    simp [hq hne] at hbusy

theorem HandshakeOk.finish (hp : s.pending = none) : HandshakeOk s.finish := by
  obtain ⟨-, hq, hr⟩ := h
  refine ⟨by simp [hp], fun hne => ?_, hr⟩
  have hne : s.outq ≠ [] := hne
  simpa [hne] using hq hne

theorem HandshakeOk.accept (ok : Bool) : HandshakeOk (s.accept ok) := by
  rcases s.accept_cases ok with ⟨-, ha⟩ | ⟨m, q, hq, ha⟩ <;> rw [ha]
  · exact h
  · obtain ⟨hp, hb, hr⟩ := h
    have hnone : s.pending = none := by
      by_contra hne
      simpa [hq] using (hp (Option.isSome_iff_ne_none.2 hne)).2
    refine ⟨by simp [hnone], fun hne => ?_, hr⟩
    have hne : q ≠ [] := hne
    simpa [busyAfterAccept, hne] using hb (by simp [hq])

theorem HandshakeOk.regWrite (off : Nat) (v : Word32) : HandshakeOk (s.regWrite off v) := by
  rcases s.regWrite_cases off v with hw | hw | ⟨-, hw⟩ | ⟨hbusy, hw⟩ <;> rw [hw]
  iterate 3 exact h
  exact ⟨fun _ => ⟨rfl, (h.empty_of_not_busy hbusy).2⟩, fun _ => rfl, fun _ => rfl⟩

theorem HandshakeOk.pollMove (again : Move) (next : List Move) : HandshakeOk (pollMove again next s) := by
  obtain ⟨ms, hms⟩ := pollMove_eq again next s
  rw [hms]
  exact h

/-- A source byte races only while a command is pending (20_memory.md R64). -/
theorem HandshakeOk.srcWrite (a : BitVec 16) (v : Byte) : HandshakeOk (s.srcWrite a v) := by
  obtain ⟨hp, hb, hr⟩ := h
  refine ⟨hp, hb, fun hne => ?_⟩
  by_contra hnone
  exact hnone (hr (by simpa [show ¬s.pending.isSome = true from hnone] using hne))

/-- Every step keeps the handshake. -/
theorem HandshakeOk.step {t : State} (ht : step s = .next t) : HandshakeOk t := by
  have hb : HandshakeOk { s with schedule := s.schedule.tail } := h
  cases step_cases ht with
  | took w u hp hu ht =>
    have hbusy : s.busy = true := (h.1 (by simp [show s.pending = some w from hp])).1
    exact ht ▸ handshakeOk_retire ((dispatch_busy_hostStuck hu).1.trans hbusy)
  | finished hp ht => exact ht ▸ hb.finish hp
  | accepted ok ht => exact ht ▸ hb.accept ok
  | wrote off v hs ht => exact ht ▸ hb.regWrite off v
  | polledIssue w hs ht => exact ht ▸ hb.pollMove _ _
  | polledCollect hs ht => exact ht ▸ hb.pollMove _ _
  | srcWritten a v ht => exact ht ▸ hb.srcWrite a v
  | reset hs ht => exact ht ▸ (by simp [HandshakeOk])
  | read | stopped | skipped =>
    subst t
    exact h

end

/-- Settles O40: every step keeps the contents, and keeps the handshake. -/
theorem everyStepKeepsTheInvariant : Obligations.EveryStepKeepsTheInvariant := by
  intro s t h hstep
  obtain ⟨hcontents, hshake⟩ := (inv_iff s).1 h
  exact (inv_iff t).2 ⟨hcontents.step hstep, hshake.step hstep⟩

/-- Settles O41: BUSY would be 1 with a command pending or a message queued, and with nothing queued PSTATE is in
neither phase. -/
theorem notBusyMeansEverythingIsComplete : Obligations.NotBusyMeansEverythingIsComplete := by
  intro s h hbusy
  obtain ⟨hcontents, hshake⟩ := (inv_iff s).1 h
  obtain ⟨hreset, hconfig, -⟩ := hcontents.phase
  obtain ⟨hp, hq⟩ := hshake.empty_of_not_busy hbusy
  rw [hq, hasPhase_nil] at hreset hconfig
  refine ⟨hp, hq, ?_⟩
  cases hps : s.pstate with
  | uninitialized => exact .inl rfl
  | ready => exact .inr rfl
  | resetting => exact absurd (hreset.2 hps) (by simp)
  | configuring => exact absurd (hconfig hps) (by simp)

end Machine

end Sys2Proof
end

section
/-! Decoding and encoding: the row of a word, read field by field (30_encoding.md R68, R72, R73). -/

namespace Sys2Proof

/-- Two words from fields are equal exactly when every field is. -/
theorem packAll_inj {op op' : BitVec 8} {k k' : BitVec 1} {rsv rsv' : BitVec 7} {a a' b b' c c' d d' : BitVec 8}
    {e e' : BitVec 16} :
    packAll op k rsv a b c d e = packAll op' k' rsv' a' b' c' d' e' ↔
      op = op' ∧ k = k' ∧ rsv = rsv' ∧ a = a' ∧ b = b' ∧ c = c' ∧ d = d' ∧ e = e' := by
  constructor
  · intro h
    exact ⟨by simpa using congrArg opField h, by simpa using congrArg kField h, by simpa using congrArg rsvField h,
      by simpa using congrArg aField h, by simpa using congrArg bField h, by simpa using congrArg cField h,
      by simpa using congrArg dField h, by simpa using congrArg eField h⟩
  · rintro ⟨rfl, rfl, rfl, rfl, rfl, rfl, rfl, rfl⟩
    rfl

/-- A row is found from a byte exactly when it has that byte. -/
theorem Opcode.ofByte_eq_some {b : BitVec 8} {o : Opcode} : Opcode.ofByte b = some o ↔ o.byte = b := by
  constructor
  · exact Opcode.byte_of_ofByte
  · rintro rfl
    exact Opcode.ofByte_byte o

/-- No two rows have the same byte. -/
theorem Opcode.byte_injective {o o' : Opcode} (h : o.byte = o'.byte) : o = o' := by
  rw [← Option.some_inj, ← Opcode.ofByte_byte o, h, Opcode.ofByte_byte]

/-- A word matches a row under its mask exactly when it has the row's byte and no must-be-zero bit set
(30_encoding.md R73). -/
theorem and_mask_eq_matchWord {w : Word64} {o : Opcode} :
    w &&& o.mask = o.matchWord ↔ o.byte = opField w ∧ w &&& o.rsvMask = 0#64 := by
  have h7 : ∀ v : BitVec 7, v &&& 0x7F#7 = v := fun _ => BitVec.and_allOnes
  have h8 : ∀ v : BitVec 8, v &&& 0xFF#8 = v := fun _ => BitVec.and_allOnes
  conv_lhs => rw [eq_packAll w, o.mask_eq, o.matchWord_eq, packAll_and, packAll_inj, h7, h8]
  rw [and_rsvMask_eq_zero, eq_comm]

/-- A word whose opcode byte no row has is refused (30_encoding.md R75). -/
theorem decode_of_unassigned {w : Word64} (h : ∀ o : Opcode, o.byte ≠ opField w) : decode w = .error .illegalOp := by
  rw [decode, Opcode.ofByte_eq_none.2 h]

section
variable {w : Word64} {o : Opcode} (h : o.byte = opField w)
include h

/-- A word with a row's byte and a must-be-zero bit set is refused (30_encoding.md R74). -/
theorem decode_of_reserved (hrsv : w &&& o.rsvMask ≠ 0#64) : decode w = .error .rsvNonzero := by
  rw [decode, Opcode.ofByte_eq_some.2 h]
  exact if_pos hrsv

/-- A word with a row's byte and no must-be-zero bit set is the row's command (30_encoding.md R73). -/
theorem decode_of_row (hrsv : w &&& o.rsvMask = 0#64) : decode w = .ok (o.operands w) := by
  rw [decode, Opcode.ofByte_eq_some.2 h]
  exact if_neg (not_not.2 hrsv)

end

/-- Every word is of one of three kinds (30_encoding.md R73). -/
theorem decode_cases (w : Word64) :
    (decode w = .error .illegalOp ∧ ∀ o : Opcode, o.byte ≠ opField w) ∨
      ∃ o : Opcode, o.byte = opField w ∧
        (decode w = .error .rsvNonzero ∧ w &&& o.rsvMask ≠ 0#64 ∨
          decode w = .ok (o.operands w) ∧ w &&& o.rsvMask = 0#64) := by
  by_cases hop : ∀ o : Opcode, o.byte ≠ opField w
  · exact .inl ⟨decode_of_unassigned hop, hop⟩
  · simp only [ne_eq, not_forall, not_not] at hop
    obtain ⟨o, ho⟩ := hop
    refine .inr ⟨o, ho, ?_⟩
    by_cases hrsv : w &&& o.rsvMask = 0#64
    · exact .inr ⟨decode_of_row ho hrsv, hrsv⟩
    · exact .inl ⟨decode_of_reserved ho hrsv, hrsv⟩

/-- The command of a word that decodes. -/
theorem decode_eq_ok {w : Word64} {i : Instr} :
    decode w = .ok i ↔ ∃ o : Opcode, w &&& o.mask = o.matchWord ∧ i = o.operands w := by
  simp only [and_mask_eq_matchWord]
  constructor
  · intro hd
    rcases decode_cases w with ⟨h, -⟩ | ⟨o, ho, ⟨h, -⟩ | ⟨h, hrsv⟩⟩
    · cases h.symm.trans hd
    · cases h.symm.trans hd
    · cases h.symm.trans hd
      exact ⟨o, ⟨ho, hrsv⟩, rfl⟩
  · rintro ⟨o, ⟨ho, hrsv⟩, rfl⟩
    exact decode_of_row ho hrsv

/-- Which words are refused for their opcode (30_encoding.md R75). -/
theorem decode_eq_illegalOp {w : Word64} : decode w = .error .illegalOp ↔ ∀ o : Opcode, o.byte ≠ opField w := by
  refine ⟨fun hd => ?_, decode_of_unassigned⟩
  rcases decode_cases w with ⟨-, h⟩ | ⟨o, -, ⟨h, -⟩ | ⟨h, -⟩⟩
  · exact h
  · cases h.symm.trans hd
  · cases h.symm.trans hd

/-- Which words are refused for a reserved bit (30_encoding.md R74). -/
theorem decode_eq_rsvNonzero {w : Word64} :
    decode w = .error .rsvNonzero ↔ ∃ o : Opcode, o.byte = opField w ∧ w &&& o.rsvMask ≠ 0#64 := by
  refine ⟨fun hd => ?_, fun ⟨o, ho, hrsv⟩ => decode_of_reserved ho hrsv⟩
  rcases decode_cases w with ⟨h, -⟩ | ⟨o, ho, ⟨-, hrsv⟩ | ⟨h, -⟩⟩
  · cases h.symm.trans hd
  · exact ⟨o, ho, hrsv⟩
  · cases h.symm.trans hd

/-- Every encoded command selects its row (30_encoding.md R73). -/
theorem encode_and_mask (i : Instr) : encode i &&& i.opcode.mask = i.opcode.matchWord := by
  cases i with
  | nop => exact Laws.EncodedRow.nop
  | clearErr => exact Laws.EncodedRow.clearErr
  | setPixel => exact Laws.EncodedRow.setPixel _ _ _
  | fill => exact Laws.EncodedRow.fill _
  | readPixel => exact Laws.EncodedRow.readPixel _ _
  | readByte => exact Laws.EncodedRow.readByte _
  | drawBitmap => exact Laws.EncodedRow.drawBitmap _ _ _ _ _ _
  | drawLine => exact Laws.EncodedRow.drawLine _ _ _ _ _
  | drawRect => exact Laws.EncodedRow.drawRect _ _ _ _ _
  | fillRect => exact Laws.EncodedRow.fillRect _ _ _ _ _
  | drawCircle => exact Laws.EncodedRow.drawCircle _ _ _ _
  | fillCircle => exact Laws.EncodedRow.fillCircle _ _ _ _
  | setCursor => exact Laws.EncodedRow.setCursor _ _
  | getCursor => exact Laws.EncodedRow.getCursor
  | setRotated => exact Laws.EncodedRow.setRotated _
  | getRotated => exact Laws.EncodedRow.getRotated
  | init => exact Laws.EncodedRow.init _
  | flush => exact Laws.EncodedRow.flush

/-- The operands of a well-formed command are read back from its word. -/
theorem operands_encode {i : Instr} (h : i.wellFormed = true) : i.opcode.operands (encode i) = i := by
  cases i with
  | nop | clearErr | getCursor | getRotated | flush => rfl
  | fill | setRotated | init => simp [Instr.opcode, Opcode.operands, encode, packC64_eq]
  | _ =>
    have hfit := of_decide_eq_true h
    simp [Instr.opcode, Opcode.operands, encode, packC64_eq, Nat.mod_eq_of_lt, hfit]

/-- Settles O1: the word selects its row, and its fields are the operands. -/
theorem decodeOfEncodeIsTheCommand : Obligations.DecodeOfEncodeIsTheCommand :=
  fun i h => decode_eq_ok.2 ⟨i.opcode, encode_and_mask i, (operands_encode h).symm⟩

/-- The flag is the lowest bit of its field (30_encoding.md R71). -/
theorem flagField_flagOf (e : BitVec 16) : flagField (flagOf e) = e &&& 1#16 := by
  rw [flagOf, BitVec.and_one_eq_setWidth_ofBool_getLsbD]
  cases e.getLsbD 0 <;> rfl

/-- Encoding the operands of a row keeps of each field the bits that may be set (30_encoding.md R72, R73). -/
theorem encode_operands (w : Word64) (o : Opcode) :
    encode (o.operands w) =
      packAll o.byte (kField w &&& ~~~o.rsvFields.k) 0#7 (aField w &&& ~~~o.rsvFields.a) (bField w &&& ~~~o.rsvFields.b)
        (cField w &&& ~~~o.rsvFields.c) (dField w &&& ~~~o.rsvFields.d) (eField w &&& ~~~o.rsvFields.e) := by
  have h8 : ∀ v : BitVec 8, v &&& 255#8 = v := fun _ => BitVec.and_allOnes
  have h16 : ∀ v : BitVec 16, v &&& 65535#16 = v := fun _ => BitVec.and_allOnes
  have h1 : ∀ v : BitVec 1, v &&& 1#1 = v := fun _ => BitVec.and_allOnes
  cases o <;> simp [Opcode.operands, encode, Instr.opcode, packC64_eq, Opcode.rsvFields, flagField_flagOf, h8, h16, h1]

/-- A field without the bits of a mask is what is left of it outside the mask. -/
theorem and_not_of_and_eq_zero {n : Nat} {v m : BitVec n} (h : v &&& m = 0#n) : v &&& ~~~m = v := by
  rw [BitVec.eq_of_getLsbD_eq_iff] at h ⊢
  intro n hn
  have := h n hn
  simp only [BitVec.getLsbD_and, BitVec.getLsbD_not, BitVec.getLsbD_zero, hn, decide_true, Bool.true_and] at this ⊢
  cases hv : v.getLsbD n <;> simp_all

/-- Settles O2: no field of the word has a bit that the encoder drops. -/
theorem encodeOfDecodedIsTheWord : Obligations.EncodeOfDecodedIsTheWord := by
  intro w i hdec
  refine ⟨wellFormed_of_decode hdec, ?_⟩
  obtain ⟨o, hrow, rfl⟩ := decode_eq_ok.1 hdec
  obtain ⟨hop, hrsv⟩ := and_mask_eq_matchWord.1 hrow
  obtain ⟨hk, hz, ha, hb, hc, hd, he⟩ := (and_rsvMask_eq_zero w o).1 hrsv
  rw [encode_operands, and_not_of_and_eq_zero hk, and_not_of_and_eq_zero ha, and_not_of_and_eq_zero hb,
    and_not_of_and_eq_zero hc, and_not_of_and_eq_zero hd, and_not_of_and_eq_zero he, hop, ← hz, ← eq_packAll]

/-- Settles O3: a row matches exactly when the word has its byte and no reserved bit set, and a byte has one row. -/
theorem wordSelectsItsOnlyRow : Obligations.WordSelectsItsOnlyRow := by
  intro w
  refine ⟨fun i => decode_eq_ok, fun o o' h h' => ?_, decode_eq_illegalOp, decode_eq_rsvNonzero⟩
  obtain ⟨hop, -⟩ := and_mask_eq_matchWord.1 h
  obtain ⟨hop', -⟩ := and_mask_eq_matchWord.1 h'
  exact Opcode.byte_injective (hop.trans hop'.symm)

/-- Settles O4: each of the seven words is decoded by computation. -/
theorem wordsOfTheSpecDecodeToTheirCommands : Obligations.WordsOfTheSpecDecodeToTheirCommands := by
  unfold Obligations.WordsOfTheSpecDecodeToTheirCommands
  decide

end Sys2Proof
end

section
/-! Refused words, and the host that polls (30_encoding.md R74, R75, R88). -/

namespace Sys2Proof.Machine

/-- In the engine's turn a word that does not decode raises its error (60_exceptions.md R155). -/
theorem step_rejects {s : State} {w : Word64} {e : DecodeError} {rest : List Move} (hp : s.pending = some w)
    (hs : EnginesTurn s rest) (hd : decode w = .error e) :
    step s = .next
      { s with
        schedule := rest
        err := if s.err = 0#4 then e.cmdError.code else s.err
        pending := none
        srcRace := []
        commandCount := s.commandCount + 1 } :=
  (step_of_enginesTurn hs hp).trans (takeCommand_error _ hd)

/-- Settles O6: the word is refused with ILLEGAL_OP, whose code is 1. -/
theorem illegalOpcodeOnlyRecordsItsCode : Obligations.IllegalOpcodeOnlyRecordsItsCode :=
  fun _ _ _ hp hs hop => step_rejects hp hs (decode_of_unassigned hop)

/-- Settles O7: the word is refused with RSV_NONZERO, whose code is 2. -/
theorem reservedBitOnlyRecordsItsCode : Obligations.ReservedBitOnlyRecordsItsCode :=
  fun _ _ _ _ hp hs hop hrsv => step_rejects hp hs (decode_of_reserved hop hrsv)

/-! ## What a step does to ERR and to the schedule -/

/-- CLEAR_ERR and FLUSH alone can change ERR: the one to 0, the other to NOT_READY (10_state.md R41). -/
theorem exec_err_cases {i : Instr} {s t : State} (h : exec i s = .next t) :
    t.err = s.err ∨ t.err = 0#4 ∨ t.err = recordErr s.err .notReady := by
  cases i with
  | clearErr =>
    cases h
    exact .inr (.inl rfl)
  | flush =>
    rcases execFlush_cases h with rfl | rfl
    · exact .inr (.inr rfl)
    · rw [State.emitAll_eq]
      exact .inl rfl
  | _ => exact .inl (by simpa [writesOf] using congrArg State.err (exec_changedOnly h))

/-- No code but OVERRUN's is 4 (60_exceptions.md R154). -/
theorem err_overrun_of_recordErr {err : BitVec 4} {e : CmdError} (he : e ≠ .overrun)
    (h : recordErr err e = 4#4) : err = 4#4 := by
  rcases recordErr_cases err e with ⟨-, h'⟩ | ⟨-, h'⟩
  · exact h' ▸ h
  · cases e with
    | overrun => exact absurd rfl he
    | _ => cases h'.symm.trans h

/-- A word taken never records an overrun. -/
theorem err_overrun_of_dispatch {w : Word64} {s t : State} (h : dispatch w s = .next t) (ht : t.err = 4#4) :
    s.err = 4#4 := by
  rcases dispatch_cases h with ⟨i, -, hi⟩ | ⟨e, -, rfl⟩
  · rcases exec_err_cases hi with he | he | he <;> rw [he] at ht
    · exact ht
    · cases ht
    · exact err_overrun_of_recordErr (by decide) ht
  · exact err_overrun_of_recordErr (by cases e <;> decide) ht

/-- A write with BUSY = 0 never records an overrun (10_state.md R24). -/
theorem err_overrun_of_regWrite {s : State} {off : Nat} {v : Word32} (h : (s.regWrite off v).err = 4#4) :
    s.err = 4#4 ∨ s.busy = true := by
  rcases s.regWrite_cases off v with hw | hw | ⟨hb, -⟩ | ⟨-, hw⟩
  · exact .inl (by rwa [hw] at h)
  · exact .inl (by rwa [hw] at h)
  · exact .inr hb
  · exact .inl (by rwa [hw] at h)

@[simp] theorem State.accept_err (s : State) (ok : Bool) : (s.accept ok).err = s.err := by
  rcases s.accept_cases ok with ⟨-, h⟩ | ⟨m, q, -, h⟩ <;> rw [h]
  rfl

@[simp] theorem State.accept_schedule (s : State) (ok : Bool) : (s.accept ok).schedule = s.schedule := by
  rcases s.accept_cases ok with ⟨-, h⟩ | ⟨m, q, -, h⟩ <;> rw [h]
  rfl

/-- Only a write of the host with BUSY = 1 records an overrun (60_exceptions.md R157). -/
theorem step_overrun_cases {s t : State} (h : step s = .next t) (ht : t.err = 4#4) :
    s.err = 4#4 ∨ s.busy = true ∧ ∃ a n v, s.schedule.head? = some (.host (.write a n v)) := by
  cases step_cases h with
  | took w u hp hu htu =>
    rw [htu] at ht
    have herr := err_overrun_of_dispatch hu ht
    exact .inl herr
  | accepted ok hta =>
    rw [hta, State.accept_err] at ht
    exact .inl ht
  | wrote off v hs htw =>
    rw [htw] at ht
    exact (err_overrun_of_regWrite ht).imp_right fun hb => ⟨hb, _, _, _, hs⟩
  | polledIssue w hs htp | polledCollect hs htp =>
    obtain ⟨ms, hms⟩ := pollMove_eq _ _ _
    rw [htp, hms] at ht
    exact .inl ht
  | reset hs htr =>
    subst htr
    cases ht
  | finished | read | stopped | skipped | srcWritten =>
    subst t
    exact .inl ht

@[simp] theorem State.regWrite_schedule (s : State) (off : Nat) (v : Word32) :
    (s.regWrite off v).schedule = s.schedule := by
  rcases s.regWrite_cases off v with h | h | ⟨-, h⟩ | ⟨-, h⟩ <;> rw [h]

/-- A poll with BUSY = 1 lets the others move and polls again (30_encoding.md R88). -/
theorem pollMove_busy {s : State} (hb : s.busy = true) (again : Move) (next : List Move) :
    pollMove again next s =
      { s with
        schedule := .progress :: again :: s.schedule
        hostReads := s.hostReads ++ [⟨0x08, s.status⟩] } := by
  simp [pollMove, hb]

/-- A poll with BUSY = 0 goes on (30_encoding.md R88). -/
theorem pollMove_idle {s : State} (hb : s.busy = false) (again : Move) (next : List Move) :
    pollMove again next s =
      { s with schedule := next ++ s.schedule, hostReads := s.hostReads ++ [⟨0x08, s.status⟩] } := by
  simp [pollMove, hb]

/-- A step takes its move off the schedule, unless it is a poll. -/
theorem step_schedule_cases {s t : State} (h : step s = .next t) :
    t.schedule = s.schedule.tail ∨
      (∃ w, t = pollMove (.issue w) (submitMoves s.cfg w) { s with schedule := s.schedule.tail }) ∨
        t = pollMove .collect (resultMoves s.cfg) { s with schedule := s.schedule.tail } := by
  cases step_cases h with
  | took w u hp hu ht => exact .inl (ht ▸ (dispatch_bounds hu).2)
  | accepted ok ht => exact .inl (ht ▸ State.accept_schedule _ ok)
  | wrote off v hs ht => exact .inl (ht ▸ State.regWrite_schedule _ off v)
  | polledIssue w hs ht => exact .inr (.inl ⟨w, ht⟩)
  | polledCollect hs ht => exact .inr (.inr ht)
  | finished | read | stopped | skipped | srcWritten | reset =>
    subst t
    exact .inl rfl

/-! ## The host that polls -/

/-- Polite moves stay polite when one is taken off. -/
theorem all_polite_tail {ms : List Move} (h : ms.all Move.polite = true) : ms.tail.all Move.polite = true := by
  rw [List.all_eq_true] at h ⊢
  exact fun m hm => h m (List.mem_of_mem_tail hm)

/-- A poll before a submit: with BUSY = 0 the two writes come next, with BUSY = 1 the schedule stays polite. -/
theorem PollingHost.pollIssue {s : State} (hh : HandshakeOk s) (hpolite : s.schedule.all Move.polite = true)
    (w : Word64) : PollingHost (pollMove (.issue w) (submitMoves s.cfg w) s) := by
  cases hb : s.busy with
  | true =>
    rw [pollMove_busy hb]
    exact .inl (by simpa [Move.polite] using hpolite)
  | false =>
    rw [pollMove_idle hb]
    exact .inr ⟨w, s.schedule, hpolite, hb, (hh.empty_of_not_busy hb).1, .inl rfl⟩

/-- A poll before a read of RESULT keeps the schedule polite. -/
theorem PollingHost.pollCollect {s : State} (hpolite : s.schedule.all Move.polite = true) :
    PollingHost (pollMove .collect (resultMoves s.cfg) s) := by
  left
  cases hb : s.busy with
  | true =>
    rw [pollMove_busy hb]
    simpa [Move.polite] using hpolite
  | false =>
    rw [pollMove_idle hb]
    simpa [Move.polite, resultMoves] using hpolite

/-- A step of a host's write skips it if the host is stuck, else writes the register. -/
theorem step_write_cases {s t : State} {off : Nat} {v : Word32} {rest : List Move} (hoff : off < 32)
    (h4 : off % 4 = 0) (hs : s.schedule = .host (.write (s.cfg.fbpBase + off) 32 v) :: rest)
    (h : step s = .next t) : t = { s with schedule := rest } ∨ t = ({ s with schedule := rest }).regWrite off v := by
  by_cases hstuck : s.hostStuck = true
  · exact .inl (Host.Outcome.next.inj (h.symm.trans (step_of_stuck_host (w := 0) hstuck (.inl hs))))
  · exact .inr (Host.Outcome.next.inj (h.symm.trans (step_of_hostWrite (eq_false_of_ne_true hstuck) hoff h4 hs)))

/-- Every step keeps the host following the protocol: a polite schedule stays polite or polls, and after a poll that read
BUSY = 0 the two writes are made, or skipped by a stuck host. -/
theorem PollingHost.step {s t : State} (hh : HandshakeOk s) (hpoll : PollingHost s) (h : step s = .next t) :
    PollingHost t := by
  rcases hpoll with hpolite | ⟨w, rest, hrest, hbusy, hpend, hs | hs⟩
  · have htail := all_polite_tail hpolite
    have hb : HandshakeOk { s with schedule := s.schedule.tail } := hh
    rcases step_schedule_cases h with ht | ⟨w, rfl⟩ | rfl
    · exact .inl (ht ▸ htail)
    · exact .pollIssue hb htail w
    · exact .pollCollect htail
  · rcases step_write_cases (by decide) (by decide) hs h with rfl | rfl <;>
      exact .inr ⟨w, rest, hrest, hbusy, hpend, .inr rfl⟩
  · rcases step_write_cases (by decide) (by decide) hs h with rfl | rfl
    · exact .inl hrest
    · exact .inl (by simpa using hrest)

/-- Settles O53: the host that polls writes only with BUSY = 0, where no write overruns. -/
theorem pollingHostNeverOverruns : Obligations.PollingHostNeverOverruns := by
  intro s t hh hpoll hstep
  refine ⟨hpoll.step hh hstep, hh.step hstep, fun ht => ?_⟩
  rcases step_overrun_cases hstep ht with herr | ⟨hbusy, a, n, v, hhead⟩
  · exact herr
  · rcases hpoll with hpolite | ⟨w, rest, -, hidle, -⟩
    · have := List.all_eq_true.1 hpolite _ (List.mem_of_head? hhead)
      cases this
    · rw [hbusy] at hidle
      cases hidle

/-! ## The protocol step by step -/

/-- One step at the front of a run of the machine. -/
theorem run_step {s t : State} (h : step s = .next t) (n : Nat) : core.run (n + 1) s = core.run n t := run_succ h n

section
variable {s : State} {rest : List Move} (hstuck : s.hostStuck = false)
include hstuck

/-- A step in which a host that is not stuck polls before a submit. -/
theorem step_of_issue {w : Word64} (hs : s.schedule = .issue w :: rest) :
    step s = .next (pollMove (.issue w) (submitMoves s.cfg w) { s with schedule := rest }) := by
  simp [step, nextMove, hs, moveOf, hostTurn, hstuck, issueMove]

/-- A step in which a host that is not stuck polls before a read of RESULT. -/
theorem step_of_collect (hs : s.schedule = .collect :: rest) :
    step s = .next (pollMove .collect (resultMoves s.cfg) { s with schedule := rest }) := by
  simp [step, nextMove, hs, moveOf, hostTurn, hstuck, collectMove]

/-- A step in which a host that is not stuck submits, with BUSY = 0 (10_state.md R24). -/
theorem step_submits {v : Word32} (hbusy : s.busy = false)
    (hs : s.schedule = .host (.write (s.cfg.fbpBase + 0x04) 32 v) :: rest) :
    step s = .next { s with schedule := rest, cmd1 := v, pending := some (v ++ s.cmd0), busy := true } := by
  obtain ⟨-, hsubmit, -⟩ := hostWritesCommandRegisters s 0x04 v rest hstuck (by decide) (by decide) hs
  exact hsubmit rfl hbusy

/-- The two writes of a submit, with BUSY = 0 (30_encoding.md R88, 20_memory.md R52). -/
theorem run_submitMoves {w : Word64} (hbusy : s.busy = false) (hs : s.schedule = submitMoves s.cfg w ++ rest) :
    core.run 2 s = .next
      { s with
        schedule := rest
        cmd0 := w.extractLsb' 0 32
        cmd1 := w.extractLsb' 32 32
        pending := some w
        busy := true } := by
  have hword : w.extractLsb' 32 32 ++ w.extractLsb' 0 32 = w := BitVec.extractLsb'_append_extractLsb'
  obtain ⟨hcmd0, -⟩ := hostWritesCommandRegisters s 0x00 _ _ hstuck (by decide) (by decide) hs
  refine (run_step (hcmd0 rfl) 1).trans
    ((run_step (step_submits (rest := rest) (v := w.extractLsb' 32 32) ?_ ?_ ?_) 0).trans ?_)
  exacts [hstuck, hbusy, rfl, by rw [hword]; rfl]

/-- The read of RESULT (30_encoding.md R88). -/
theorem run_resultMoves (hs : s.schedule = resultMoves s.cfg ++ rest) :
    core.run 1 s = .next { s with schedule := rest, hostReads := s.hostReads ++ [⟨0x0C, s.result⟩] } :=
  run_step (step_of_hostRead hstuck (by decide) (by decide) hs) 0

end

/-- Settles O52: the poll, and then the two writes or the read, each a step. -/
theorem protocolSubmitsTheWord : Obligations.ProtocolSubmitsTheWord := by
  refine ⟨fun s w rest hstuck hs => ⟨fun hbusy => ?_, fun hbusy => ?_⟩,
    fun s rest hstuck hs => ⟨fun hbusy => ?_, fun hbusy => ?_⟩⟩
  · have hpoll := step_of_issue hstuck hs
    rw [pollMove_idle (s := { s with schedule := rest }) hbusy] at hpoll
    refine (run_step hpoll 2).trans (run_submitMoves ?_ ?_ ?_)
    exacts [hstuck, hbusy, rfl]
  · have hpoll := step_of_issue hstuck hs
    rw [pollMove_busy (s := { s with schedule := rest }) hbusy] at hpoll
    exact hpoll
  · have hpoll := step_of_collect hstuck hs
    rw [pollMove_idle (s := { s with schedule := rest }) hbusy] at hpoll
    refine (run_step hpoll 1).trans ((run_resultMoves (rest := rest) ?_ ?_).trans ?_)
    exacts [hstuck, rfl, by simp [State.status]]
  · have hpoll := step_of_collect hstuck hs
    rw [pollMove_busy (s := { s with schedule := rest }) hbusy] at hpoll
    exact hpoll

end Sys2Proof.Machine
end

section
/-! The assembler: no operand is truncated, and the pseudo-instructions expand to their commands (30_encoding.md R78 to
R86). -/

namespace Sys2Proof

/-- Settles O58: each line is assembled by computation, and the operands of CLR_PIXEL are checked. -/
theorem pseudoInstructionsExpand : Obligations.PseudoInstructionsExpand := by
  refine ⟨rfl, fun x y hx hy => ?_, rfl, ⟨_, rfl⟩, fun n hn => ?_⟩
  · simp [expand, checked, Instr.wellFormed, hx, hy]
  · simp only [List.mem_cons, List.not_mem_nil, or_false] at hn
    rcases hn with rfl | rfl | rfl | rfl | rfl <;> rfl

/-! ## Operands -/

/-- Only a well-formed command is assembled (30_encoding.md R78). -/
theorem checked_eq_ok {i : Instr} {is : List Instr} (h : checked i = .ok is) : i.wellFormed = true ∧ is = [i] := by
  unfold checked at h
  split_ifs at h with hwf
  exact ⟨hwf, (Except.ok.inj h).symm⟩

/-- A colour operand gives the number of its colour (30_encoding.md R78). -/
theorem numbers_of_asColour {o : AsmOperand} {c : Colour} (h : o.asColour = some c) :
    (AsmOperand.colour c).numbers = o.numbers := by
  unfold AsmOperand.asColour at h
  split at h <;> cases h <;> rfl

/-- A flag operand gives the number of its flag (30_encoding.md R78). -/
theorem numbers_of_asFlag {o : AsmOperand} {b : Bool} (h : o.asFlag = some b) :
    (flagOperand b).numbers = o.numbers := by
  unfold AsmOperand.asFlag at h
  split at h <;> cases h <;> rfl

/-- A command with a colour is assembled with the colour given. -/
theorem needColour_eq_ok {o : AsmOperand} {k : Colour → Instr} {is : List Instr} (h : needColour o k = .ok is) :
    ∃ c, o.asColour = some c ∧ checked (k c) = .ok is := by
  unfold needColour at h
  split at h
  · exact ⟨_, ‹_›, h⟩
  · cases h

/-- A command with a flag is assembled with the flag given. -/
theorem needFlag_eq_ok {o : AsmOperand} {k : Bool → Instr} {is : List Instr} (h : needFlag o k = .ok is) :
    ∃ b, o.asFlag = some b ∧ checked (k b) = .ok is := by
  unfold needFlag at h
  split at h
  · exact ⟨_, ‹_›, h⟩
  · cases h

/-- `is` is one well-formed command of row `o`, with exactly the numbers that `ops` give. -/
def Carries (o : Opcode) (ops : List AsmOperand) (is : List Instr) : Prop :=
  ∃ i : Instr, is = [i] ∧ i.opcode = o ∧ i.wellFormed = true ∧
    i.asmOperands.flatMap AsmOperand.numbers = ops.flatMap AsmOperand.numbers

/-- A checked command carries its own operands. -/
theorem Carries.of_checked {i : Instr} {ops : List AsmOperand} {is : List Instr} (h : checked i = .ok is)
    (hops : i.asmOperands.flatMap AsmOperand.numbers = ops.flatMap AsmOperand.numbers) : Carries i.opcode ops is := by
  obtain ⟨hwf, his⟩ := checked_eq_ok h
  exact ⟨i, his, rfl, hwf, hops⟩

section
variable {o : Opcode} {ops : List AsmOperand} {a : AsmOperand} {is : List Instr}

/-- A command with a colour carries its operands, if it does for every colour of the operand's number. -/
theorem Carries.of_needColour {k : Colour → Instr} (h : needColour a k = .ok is) (hop : ∀ c, (k c).opcode = o)
    (hops : ∀ c, (AsmOperand.colour c).numbers = a.numbers →
      (k c).asmOperands.flatMap AsmOperand.numbers = ops.flatMap AsmOperand.numbers) : Carries o ops is := by
  obtain ⟨c, hc, hk⟩ := needColour_eq_ok h
  exact hop c ▸ .of_checked hk (hops c (numbers_of_asColour hc))

/-- A command with a flag carries its operands, if it does for every flag of the operand's number. -/
theorem Carries.of_needFlag {k : Bool → Instr} (h : needFlag a k = .ok is) (hop : ∀ b, (k b).opcode = o)
    (hops : ∀ b, (flagOperand b).numbers = a.numbers →
      (k b).asmOperands.flatMap AsmOperand.numbers = ops.flatMap AsmOperand.numbers) : Carries o ops is := by
  obtain ⟨b, hb, hk⟩ := needFlag_eq_ok h
  exact hop b ▸ .of_checked hk (hops b (numbers_of_asFlag hb))

end

/-- A command assembled from any operands carries them; INIT alone may leave its operand out (30_encoding.md R83). -/
theorem commandOf_eq_ok {o : Opcode} {ops : List AsmOperand} {is : List Instr} (h : commandOf o ops = .ok is) :
    o = .init ∧ ops = [] ∧ is = [.init true] ∨ Carries o ops is := by
  unfold commandOf at h
  -- The cases are the lines of `commandOf`, in its order.
  split at h
  case h_17 => exact .inl ⟨rfl, rfl, (Except.ok.inj h).symm⟩
  case h_3 | h_4 | h_7 | h_8 | h_9 | h_10 | h_11 | h_12 =>
    exact .inr (.of_needColour h (fun _ => rfl) fun _ hc => by simp [Instr.asmOperands, hc])
  case h_15 | h_18 => exact .inr (.of_needFlag h (fun _ => rfl) fun _ hb => by simp [Instr.asmOperands, hb])
  case h_1 | h_2 | h_5 | h_6 | h_13 | h_14 | h_16 | h_19 => exact .inr (.of_checked h rfl)
  case h_20 => cases h

/-! ## Polylines -/

section
variable {c : Colour} {x y x' y' : Nat} {vs : List AsmOperand}

/-- Between two vertices that fit a polyline has one line (30_encoding.md R86). -/
theorem polylineFrom_of_fits (h : Fits8 x ∧ Fits8 y) (h' : Fits8 x' ∧ Fits8 y') :
    polylineFrom c x y (.vertex x' y' :: vs) =
      (polylineFrom c x' y' vs).map (.drawLine x y x' y' c :: ·) := by
  have hline : checked (.drawLine x y x' y' c) = .ok [.drawLine x y x' y' c] :=
    if_pos (decide_eq_true ⟨h.1, h.2, h'.1, h'.2⟩)
  rw [polylineFrom, hline]
  cases polylineFrom c x' y' vs <;> rfl

/-- A vertex that does not fit is an error (30_encoding.md R78). -/
theorem polylineFrom_of_not_fits (h' : ¬(Fits8 x' ∧ Fits8 y')) :
    polylineFrom c x y (.vertex x' y' :: vs) = .error .doesNotFit := by
  have hline : checked (.drawLine x y x' y' c) = .error .doesNotFit :=
    if_neg fun hwf => h' (of_decide_eq_true hwf).2.2
  rw [polylineFrom, hline]

end

/-- Vertices as operands. -/
def vertexOperands (vs : List (Nat × Nat)) : List AsmOperand := vs.map fun v => .vertex v.1 v.2

theorem vertexOperands_cons (v : Nat × Nat) (vs : List (Nat × Nat)) :
    vertexOperands (v :: vs) = .vertex v.1 v.2 :: vertexOperands vs := rfl

/-- The lines between the consecutive pairs of some vertices (30_encoding.md R86). -/
def joinVertices (c : Colour) (vs : List (Nat × Nat)) : List Instr :=
  (vs.zip vs.tail).map fun e => .drawLine e.1.1 e.1.2 e.2.1 e.2.2 c

/-- From a vertex that fits, vertices that fit are joined in order. -/
theorem polylineFrom_vertexOperands (c : Colour) (vs : List (Nat × Nat)) {v : Nat × Nat} (hv : Fits8 v.1 ∧ Fits8 v.2)
    (h : ∀ u ∈ vs, Fits8 u.1 ∧ Fits8 u.2) :
    polylineFrom c v.1 v.2 (vertexOperands vs) = .ok (joinVertices c (v :: vs)) := by
  induction vs generalizing v with
  | nil => rfl
  | cons u vs ih =>
    obtain ⟨hu, hvs⟩ := List.forall_mem_cons.1 h
    rw [vertexOperands_cons, polylineFrom_of_fits hv hu, ih hu hvs]
    rfl

/-- From a vertex that fits, a vertex that does not fit is an error. -/
theorem polylineFrom_vertexOperands_error (c : Colour) (vs : List (Nat × Nat)) {v : Nat × Nat}
    (hv : Fits8 v.1 ∧ Fits8 v.2) (h : ∃ u ∈ vs, ¬(Fits8 u.1 ∧ Fits8 u.2)) :
    polylineFrom c v.1 v.2 (vertexOperands vs) = .error .doesNotFit := by
  induction vs generalizing v with
  | nil => simp at h
  | cons u vs ih =>
    rw [vertexOperands_cons]
    by_cases hu : Fits8 u.1 ∧ Fits8 u.2
    · have hvs := (List.exists_mem_cons_iff _ _ _).1 h |>.resolve_left (not_not.2 hu)
      rw [polylineFrom_of_fits hv hu, ih hu hvs]
      rfl
    · exact polylineFrom_of_not_fits hu

/-- Every line of a polyline is well-formed. -/
theorem polylineFrom_wellFormed {c : Colour} {ops : List AsmOperand} {x y : Nat} {is : List Instr}
    (hv : Fits8 x ∧ Fits8 y) (h : polylineFrom c x y ops = .ok is) : ∀ i ∈ is, i.wellFormed = true := by
  induction ops generalizing x y is with
  | nil =>
    cases h
    simp
  | cons o ops ih =>
    cases o with
    | num | colour => cases h
    | vertex x' y' =>
      by_cases hu : Fits8 x' ∧ Fits8 y'
      · rw [polylineFrom_of_fits hv hu] at h
        cases hrest : polylineFrom c x' y' ops with
        | error e => simp [hrest, Except.map] at h
        | ok ls =>
          rw [hrest] at h
          cases h
          exact List.forall_mem_cons.2 ⟨decide_eq_true ⟨hv.1, hv.2, hu⟩, ih hu hrest⟩
      · rw [polylineFrom_of_not_fits hu] at h
        cases h

/-- A polyline from its first vertex (30_encoding.md R86). -/
theorem polylineOf_vertex (c : Colour) (x y : Nat) (vs : List AsmOperand) :
    polylineOf c (.vertex x y :: vs) =
      if Fits8 x ∧ Fits8 y then polylineFrom c x y vs else .error .doesNotFit := rfl

/-- DRAW_POLYLINE with a colour operand (30_encoding.md R78, R86). -/
theorem expand_drawPolyline {o : AsmOperand} {c : Colour} (h : o.asColour = some c) (vs : List AsmOperand) :
    expand .drawPolyline (o :: vs) = polylineOf c vs := by simp [expand, h]

/-- Settles O60: by induction on the vertices, each one that fits adds its line. -/
theorem polylineJoinsConsecutiveVertices : Obligations.PolylineJoinsConsecutiveVertices := by
  intro c o vs ho hvs
  have hc : o.asColour = some c := by
    rcases ho with rfl | rfl
    · rfl
    · cases c <;> rfl
  rw [expand_drawPolyline hc]
  cases vs with
  | nil => rfl
  | cons v vs =>
    obtain ⟨hv, hvs⟩ := List.forall_mem_cons.1 hvs
    rw [List.map_cons, polylineOf_vertex, if_pos hv]
    exact polylineFrom_vertexOperands c vs hv hvs

/-- A polyline with a vertex that does not fit is an error (30_encoding.md R78). -/
theorem polylineOf_error (c : Colour) {vs : List (Nat × Nat)} (h : ∃ v ∈ vs, ¬(Fits8 v.1 ∧ Fits8 v.2)) :
    polylineOf c (vertexOperands vs) = .error .doesNotFit := by
  cases vs with
  | nil => simp at h
  | cons v vs =>
    rw [vertexOperands_cons, polylineOf_vertex]
    split_ifs with hv
    · have hvs := (List.exists_mem_cons_iff _ _ _).1 h |>.resolve_left (not_not.2 hv)
      exact polylineFrom_vertexOperands_error c vs hv hvs
    · rfl

/-- Every command of a polyline is well-formed. -/
theorem polylineOf_wellFormed {c : Colour} {ops : List AsmOperand} {is : List Instr} (h : polylineOf c ops = .ok is) :
    ∀ i ∈ is, i.wellFormed = true := by
  unfold polylineOf at h
  split at h
  · cases h
    simp
  · split_ifs at h with hv
    exact polylineFrom_wellFormed hv h
  · cases h

/-! ## Expansion -/

/-- A command written with its operands is checked (30_encoding.md R78, R79). -/
theorem expand_asmOperands (i : Instr) : expand (.command i.opcode) i.asmOperands = checked i := by
  cases i with
  | setRotated b | init b => cases b <;> rfl
  | _ => rfl

/-- A checked command is well-formed. -/
theorem wellFormed_of_mem_checked {i : Instr} {is : List Instr} (h : checked i = .ok is) :
    ∀ j ∈ is, j.wellFormed = true := by
  obtain ⟨hwf, rfl⟩ := checked_eq_ok h
  simpa using hwf

/-- Every command of an expansion is well-formed. -/
theorem expand_wellFormed {m : AsmMnemonic} {ops : List AsmOperand} {is : List Instr} (h : expand m ops = .ok is) :
    ∀ i ∈ is, i.wellFormed = true := by
  unfold expand at h
  split at h
  · rcases commandOf_eq_ok h with ⟨-, -, rfl⟩ | ⟨i, rfl, -, hwf, -⟩
    · simp [Instr.wellFormed]
    · simpa using hwf
  · exact wellFormed_of_mem_checked h
  · exact wellFormed_of_mem_checked h
  · split at h
    · exact polylineOf_wellFormed h
    · cases h
  · cases h

/-- Settles O59: every command is checked before it is assembled, and carries the numbers given. -/
theorem assemblerNeverTruncates : Obligations.AssemblerNeverTruncates := by
  refine ⟨expand_asmOperands, fun x y => ?_, fun n hn => ?_, fun o ops is => commandOf_eq_ok, fun c vs hvs => ?_,
    fun m ops is => expand_wellFormed⟩
  · simp [expand, checked, Instr.wellFormed]
  · obtain ⟨k, rfl⟩ : ∃ k, n = k + 2 := ⟨n - 2, by omega⟩
    exact ⟨rfl, rfl⟩
  · exact (expand_drawPolyline rfl _).trans (polylineOf_error c hvs)

end Sys2Proof
end

section
/-! The bit-packer commands (40_bitpacker.md): the rows they decode from, the bits they write, and what they report. -/

namespace Sys2Proof.Machine

/-- The words that match a row decode to the row's command with the operands of R72 (30_encoding.md R73). -/
theorem selectedBy_row (o : Opcode) : SelectedBy o.mask o.matchWord (fun w => o.operands w) :=
  fun _ hw => decode_eq_ok.2 ⟨o, hw, rfl⟩

/-! ### SET_PIXEL -/

/-- A plot at an out-of-range coordinate is ignored (40_bitpacker.md R89). -/
theorem plotMem_of_not_inRange {cfg : Config} {p : Int × Int} (hp : ¬cfg.InRange p.1 p.2) (draw : Nat → Byte)
    (c : Colour) (m : Mem) : plotMem cfg draw c m p = m := if_neg hp

/-- Painting one out-of-range coordinate changes nothing. -/
theorem State.paint_singleton_of_not_inRange {s : State} {p : Int × Int} (hp : ¬s.cfg.InRange p.1 p.2) (c : Colour) :
    s.paint [p] c = s := by
  rw [State.paint, List.foldl_cons, plotMem_of_not_inRange hp, List.foldl_nil]

/-- The one pixel of a single coordinate. -/
theorem onList_singleton {x y : Nat} {p : Nat × Nat} : OnList [((x : Int), (y : Int))] p ↔ p = (x, y) := by
  simp [OnList, Prod.ext_iff]

/-- Settles O10: the one coordinate is painted, or lies outside the panel. -/
theorem setPixelWritesOneBit : Obligations.SetPixelWritesOneBit := by
  refine ⟨selectedBy_row .setPixel, fun s x y c => ⟨⟨_, rfl, ?_⟩, fun hout => ?_⟩⟩
  · exact (paintedExactly_paint s _ c).congr fun _ _ _ => onList_singleton
  · have hrange : ¬s.cfg.InRange (x : Int) (y : Int) := by rintro ⟨-, -, hx, hy⟩; omega
    exact congrArg Host.Outcome.next (State.paint_singleton_of_not_inRange hrange c)

/-! ### FILL -/

/-- FILL's byte holds eight pixels of the colour (40_bitpacker.md R92). -/
theorem getLsbD_fillByte (c : Colour) {b : Nat} (hb : b < 8) : c.fillByte.getLsbD b = c.isWhite := by
  cases c with
  | black => exact BitVec.getLsbD_zero
  | white => exact (BitVec.getLsbD_allOnes (v := 8)).trans (decide_eq_true hb)

/-- Filling with a colour's byte paints every in-range pixel (40_bitpacker.md R93). -/
theorem paintedExactly_fillFb (s : State) (c : Colour) :
    PaintedExactly s (s.fillFb c.fillByte) (fun p => p.1 < s.cfg.width ∧ p.2 < s.cfg.height) c := by
  refine ⟨rfl, fun i b hb => ⟨fun hin => ?_, fun hout => ?_⟩⟩
  · obtain ⟨hi, -⟩ := hin
    rw [fbRead_fillFb, if_pos hi, getLsbD_fillByte c hb]
  · have hi : ¬i < s.cfg.fbLen := fun hi => hout ⟨hi, pixelOfBit_inRange s.cfg hi hb⟩
    rw [fbRead_fillFb, if_neg hi]

/-- Settles O11: every byte below FB_LEN is the colour's. -/
theorem fillSetsEveryByte : Obligations.FillSetsEveryByte := by
  refine ⟨selectedBy_row .fill, fun s c => ⟨_, rfl, rfl, fun i => ?_⟩⟩
  have hbyte : c.fillByte = if c = .white then 0xFF#8 else 0x00#8 := by cases c <;> rfl
  rw [fbRead_fillFb, hbyte]

/-- Settles O12: every bit below FB_LEN is that of an in-range pixel. -/
theorem fillPaintsEveryPixel : Obligations.FillPaintsEveryPixel :=
  fun s c => ⟨_, rfl, paintedExactly_fillFb s c⟩

/-! ### READ_PIXEL and READ_BYTE -/

/-- The valid bit is set and the pixel is bit 0 (40_bitpacker.md R94). -/
theorem pixelResult_eq (white : Bool) : pixelResult white = if white then 3#32 else 2#32 := by
  cases white <;> rfl

/-- Settles O13: RESULT is the valid bit and the pixel. -/
theorem readPixelReportsThePixel : Obligations.ReadPixelReportsThePixel := by
  refine ⟨selectedBy_row .readPixel, fun s x y => ?_⟩
  simp only [exec, execReadPixel, pixelResult_eq]
  rfl

/-- The valid bit stands above the byte (40_bitpacker.md R95). -/
theorem toNat_byteResult (b : Byte) : (byteResult b).toNat = 0x100 + b.toNat := by
  have hb : b.toNat < 2 ^ 8 := b.isLt
  have happend : (1#1 ++ b).toNat = 1 <<< 8 + b.toNat := by
    rw [BitVec.toNat_append, ← Nat.shiftLeft_add_eq_or_of_lt hb]
    rfl
  rw [byteResult, BitVec.toNat_setWidth, happend]
  omega

/-- Settles O14: RESULT is the valid bit and the byte, or 0. -/
theorem readByteReportsTheByte : Obligations.ReadByteReportsTheByte := by
  refine ⟨selectedBy_row .readByte, fun s i => ⟨_, rfl, rfl, fun hi => ?_, fun hi => if_neg (not_lt.2 hi)⟩⟩
  exact (congrArg BitVec.toNat (if_pos hi)).trans (toNat_byteResult _)

/-! ### DRAW_BITMAP -/

/-- DRAW_BITMAP's points are the set source bits (40_bitpacker.md R96). -/
theorem onList_bitmapPoints {read : Nat → Byte} {x y w h src : Nat} {p : Nat × Nat} :
    OnList (bitmapPoints x y w h ((bitmapReads w h src).map read)) p ↔ OnBitmap read x y w h src p := by
  refine ⟨onBitmap_of_mem_bitmapPoints, ?_⟩
  rintro ⟨i, j, hi, hj, rfl, hset⟩
  have hbyte : (j, i / 8) ∈ bitmapBytes w h := mem_bitmapBytes.2 ⟨hj, by simp only [byteWidth]; omega⟩
  have hcolumn : i ∈ natRange (8 * (i / 8)) (min (8 * (i / 8) + 7) (w - 1)) := mem_natRange.2 (by omega)
  rw [OnList, bitmapPoints_reads]
  exact List.mem_flatMap.2 ⟨_, hbyte, List.mem_filterMap.2 ⟨i, hcolumn, if_pos hset⟩⟩

section
variable {s : State} {x y : Nat} (w h src : Nat) (c : Colour)

/-- DRAW_BITMAP from an origin out of range does nothing, and reads nothing (40_bitpacker.md R97). -/
theorem exec_drawBitmap_of_outOfRange (hout : x ≥ s.cfg.width ∨ y ≥ s.cfg.height) :
    exec (.drawBitmap x y w h src c) s = .next s :=
  congrArg Host.Outcome.next (if_pos hout)

/-- DRAW_BITMAP from an in-range origin paints the points of the bytes read (40_bitpacker.md R97). -/
theorem exec_drawBitmap_of_inRange (hin : x < s.cfg.width ∧ y < s.cfg.height) :
    exec (.drawBitmap x y w h src c) s =
      .next (s.paint (bitmapPoints x y w h ((bitmapReads w h src).map s.srcRead)) c) :=
  congrArg Host.Outcome.next (if_neg (by omega))

end

/-- Settles O15: the points painted are the set source bits. -/
theorem drawBitmapPaintsTheSetSourceBits : Obligations.DrawBitmapPaintsTheSetSourceBits := by
  refine ⟨selectedBy_row .drawBitmap, fun s x y w h src c =>
    ⟨fun hin => ⟨_, exec_drawBitmap_of_inRange w h src c hin, ?_⟩, exec_drawBitmap_of_outOfRange w h src c⟩⟩
  exact (paintedExactly_paint s _ c).congr fun _ _ _ => onList_bitmapPoints

/-- The reads of one more row follow those before (40_bitpacker.md R98). -/
theorem bitmapReads_succ (w h src : Nat) :
    bitmapReads w (h + 1) src = bitmapReads w h src ++ (List.range (byteWidth w)).map (srcAddr src w h) := by
  simp [bitmapReads, bitmapBytes, List.range_succ, Function.comp_def]

/-- The rows lie one after the other, so the reads are at consecutive addresses from `src` (40_bitpacker.md R98). -/
theorem bitmapReads_eq_map_range (w h src : Nat) :
    bitmapReads w h src = (List.range (h * byteWidth w)).map fun n => (src + n) % 65536 := by
  induction h with
  | zero => simp [bitmapReads, bitmapBytes]
  | succ h ih =>
    rw [bitmapReads_succ, ih, Nat.succ_mul, List.range_add, List.map_append, List.map_map]
    simp [srcAddr, Function.comp_def, Nat.add_assoc]

/-- At most 2^16 consecutive addresses are distinct, though they wrap (20_memory.md R47). -/
theorem nodup_map_range_mod {n : Nat} (hn : n ≤ 65536) (src : Nat) :
    ((List.range n).map fun k => (src + k) % 65536).Nodup := by
  refine List.Nodup.map_on (fun a ha b hb hab => ?_) List.nodup_range
  rw [List.mem_range] at ha hb
  omega

/-- A bitmap whose sizes fit their fields has no more source bytes than the source memory has addresses. -/
theorem bitmapReads_count_le {w h : Nat} (hw : Fits8 w) (hh : Fits8 h) : h * byteWidth w ≤ 65536 := by
  have hwidth : byteWidth w ≤ 32 := by simp only [byteWidth]; omega
  calc h * byteWidth w ≤ 256 * 32 := Nat.mul_le_mul hh.le hwidth
    _ ≤ 65536 := by norm_num

/-- A bitmap drawn from two source memories that agree on its bytes is the same (40_bitpacker.md R98). -/
theorem exec_drawBitmap_fb_congr {s t t' : State} {m : Mem} {race : List Host.Cell} {x y w h src : Nat} {c : Colour}
    (hagree : ∀ a ∈ bitmapReads w h src, State.srcRead { s with src := m, srcRace := race } a = s.srcRead a)
    (ht : exec (.drawBitmap x y w h src c) s = .next t)
    (ht' : exec (.drawBitmap x y w h src c) { s with src := m, srcRace := race } = .next t') : t'.fb = t.fb := by
  by_cases hin : x < s.cfg.width ∧ y < s.cfg.height
  · cases (exec_drawBitmap_of_inRange w h src c hin).symm.trans ht
    cases (exec_drawBitmap_of_inRange (s := { s with src := m, srcRace := race }) w h src c hin).symm.trans ht'
    rw [List.map_congr_left hagree]
    rfl
  · have hout : x ≥ s.cfg.width ∨ y ≥ s.cfg.height := by omega
    cases (exec_drawBitmap_of_outOfRange w h src c hout).symm.trans ht
    cases (exec_drawBitmap_of_outOfRange (s := { s with src := m, srcRace := race }) w h src c hout).symm.trans ht'
    rfl

/-- Settles O16: the addresses are consecutive ones, too few to meet after wrapping. -/
theorem drawBitmapReadsEachSourceByteOnce : Obligations.DrawBitmapReadsEachSourceByteOnce := by
  intro w h src hw hh
  have hreads := bitmapReads_eq_map_range w h src
  refine ⟨fun s x y c =>
      ⟨exec_drawBitmap_of_inRange w h src c, fun hout _ _ => exec_drawBitmap_of_outOfRange w h src c hout⟩,
    ?_, ?_, fun j k hj hk => ?_, fun s m race x y c t t' => exec_drawBitmap_fb_congr⟩
  · rw [hreads, List.length_map, List.length_range, byteWidth]
  · exact hreads ▸ nodup_map_range_mod (bitmapReads_count_le hw hh) src
  · have hlt : j * byteWidth w + k < h * byteWidth w :=
      calc j * byteWidth w + k < j * byteWidth w + byteWidth w := Nat.add_lt_add_left hk _
        _ = (j + 1) * byteWidth w := (Nat.succ_mul _ _).symm
        _ ≤ h * byteWidth w := Nat.mul_le_mul_right _ hj
    rw [hreads, ← byteWidth, List.getElem?_map, List.getElem?_range hlt, Option.map_some, Nat.add_assoc]

end Sys2Proof.Machine
end

section
/-! The line walk in closed form (41_rasterizers.md R105, R107): after `i` of its `n = max(dx, dy)` steps each
coordinate has gone the fraction `i / n` of its distance, rounded to the nearest pixel, halves down. -/

namespace Sys2Proof

/-! ### The rounded share of a distance -/

/-- `d * i / n` to the nearest integer, halves down. -/
def lineShare (d n i : Nat) : Nat := (2 * d * i + n - 1) / (2 * n)

theorem lineShare_mono (d n : Nat) {i j : Nat} (h : i ≤ j) : lineShare d n i ≤ lineShare d n j := by
  have hmul : 2 * d * i ≤ 2 * d * j := Nat.mul_le_mul_left _ h
  exact Nat.div_le_div_right (by omega)

@[simp] theorem lineShare_zero (d n : Nat) : lineShare d n 0 = 0 := by
  rcases n.eq_zero_or_pos with rfl | hn
  · simp [lineShare]
  · exact Nat.div_eq_of_lt (by omega)

section
variable {d n i : Nat}

/-- The share is the integer whose rounding interval holds `d * i / n`. -/
theorem lineShare_eq_iff (hn : 0 < n) {k : Nat} :
    lineShare d n i = k ↔ 2 * n * k < 2 * d * i + n ∧ 2 * d * i ≤ 2 * n * k + n := by
  rw [lineShare, Nat.div_eq_iff (by omega), Nat.mul_comm k]
  omega

theorem lineShare_bounds (hn : 0 < n) :
    2 * n * lineShare d n i < 2 * d * i + n ∧ 2 * d * i ≤ 2 * n * lineShare d n i + n :=
  (lineShare_eq_iff hn).1 rfl

/-- A coordinate that does not move has no share. -/
@[simp] theorem lineShare_of_fixed : lineShare 0 n i = 0 := by
  rcases n.eq_zero_or_pos with rfl | hn
  · simp [lineShare]
  · exact (lineShare_eq_iff hn).2 (by omega)

/-- The longer coordinate steps every time. -/
theorem lineShare_of_longer (hi : i ≤ n) : lineShare n n i = i := by
  rcases n.eq_zero_or_pos with rfl | hn
  · simp [Nat.le_zero.1 hi]
  · exact (lineShare_eq_iff hn).2 (by omega)

/-- After `n` steps each coordinate has gone its whole distance. -/
theorem lineShare_all (hd : d ≤ n) : lineShare d n n = d := by
  rcases n.eq_zero_or_pos with rfl | hn
  · simp [Nat.le_zero.1 hd]
  · have hcomm : 2 * d * n = 2 * n * d := by ring
    exact (lineShare_eq_iff hn).2 (by omega)

/-- No share is larger than its distance. -/
theorem lineShare_le (hd : d ≤ n) (hi : i ≤ n) : lineShare d n i ≤ d :=
  (lineShare_mono d n hi).trans_eq (lineShare_all hd)

/-- The share grows by one exactly when the fraction passes the middle to the next integer. -/
theorem lineShare_succ (hd : d ≤ n) (hn : 0 < n) :
    lineShare d n (i + 1) =
      lineShare d n i + if n * (2 * lineShare d n i + 1) < 2 * d * (i + 1) then 1 else 0 := by
  obtain ⟨hlow, hhigh⟩ := lineShare_bounds (d := d) (i := i) hn
  rw [lineShare_eq_iff hn]
  split_ifs with h <;> constructor <;> nlinarith

/-- Half a step on, the fraction is still below the integer after the share. -/
theorem lineShare_lt_of_shorter (hd : d ≤ n) (hn : 0 < n) :
    d * (2 * i + 1) < 2 * n * (lineShare d n i + 1) := by
  obtain ⟨-, hhigh⟩ := lineShare_bounds (d := d) (i := i) hn
  rcases hd.lt_or_eq with hlt | rfl
  · nlinarith
  · have hodd : 2 * i + 1 < 2 * (lineShare d d i + 1) := by
      have : 2 * i ≤ 2 * lineShare d d i + 1 := by nlinarith
      omega
    nlinarith

/-- The walk compares the two shares and not the fraction: with one share whole, that is the same test
(41_rasterizers.md R105). -/
theorem lineShare_succ_of_test {e : Nat} (hd : d ≤ n) (he : e ≤ n) (hlonger : d = n ∨ e = n) (hi : i < n) :
    lineShare d n (i + 1) =
      lineShare d n i + if e * (2 * lineShare d n i + 1) < 2 * d * (lineShare e n i + 1) then 1 else 0 := by
  have htest : n * (2 * lineShare d n i + 1) < 2 * d * (i + 1) ↔
      e * (2 * lineShare d n i + 1) < 2 * d * (lineShare e n i + 1) := by
    rcases hlonger with rfl | rfl
    · have hshorter := lineShare_lt_of_shorter (i := i) he (by omega)
      rw [lineShare_of_longer hi.le]
      exact iff_of_true (by nlinarith) hshorter
    · rw [lineShare_of_longer hi.le]
  rw [lineShare_succ hd (by omega), if_congr htest rfl rfl]

end

/-! ### The coordinates of the walk -/

/-- The distance a coordinate goes: `dx` or `dy` (41_rasterizers.md R105). -/
def axisDist (a b : Nat) : Nat := ((b : Int) - (a : Int)).natAbs

/-- The direction a coordinate goes: `sx` or `sy` (41_rasterizers.md R105). -/
def axisDir (a b : Nat) : Int := if a < b then 1 else -1

theorem sub_eq_axisDir_mul (a b : Nat) : (b : Int) - a = axisDir a b * axisDist a b := by
  unfold axisDir axisDist
  split_ifs <;> omega

theorem axisDir_ne_zero (a b : Nat) : axisDir a b ≠ 0 := by
  unfold axisDir
  split_ifs <;> decide

theorem absDiff_eq_axisDist (a b : Nat) : absDiff a b = axisDist a b := rfl

@[simp] theorem axisDist_self (a : Nat) : axisDist a a = 0 := by simp [axisDist]

/-- Test 1, on the shares `p` and `q` (41_rasterizers.md R105). -/
theorem neg_lt_lineErr (dx dy p q : Nat) :
    -(dy : Int) < 2 * (dx * (q + 1) - dy * (p + 1)) ↔ dy * (2 * p + 1) < 2 * dx * (q + 1) := by
  zify
  constructor <;> intro h <;> linarith

/-- Test 2, on the shares `p` and `q` (41_rasterizers.md R105). -/
theorem lineErr_lt (dx dy p q : Nat) :
    2 * (dx * (q + 1) - dy * (p + 1)) < (dx : Int) ↔ dx * (2 * q + 1) < 2 * dy * (p + 1) := by
  zify
  constructor <;> intro h <;> linarith

/-- The coordinate `k` pixels from `a` towards `b`. -/
def alongAxis (a b k : Nat) : Int := a + axisDir a b * k

section
variable {a b k : Nat}

@[simp] theorem alongAxis_zero : alongAxis a b 0 = a := by simp [alongAxis]

@[simp] theorem alongAxis_dist : alongAxis a b (axisDist a b) = b := by
  unfold alongAxis axisDir axisDist
  split_ifs <;> omega

theorem alongAxis_succ : alongAxis a b (k + 1) = alongAxis a b k + axisDir a b := by
  simp only [alongAxis, Nat.cast_add, Nat.cast_one]
  ring

/-- What is left of the distance after `k` pixels. -/
theorem natAbs_sub_alongAxis (hk : k ≤ axisDist a b) : ((b : Int) - alongAxis a b k).natAbs = axisDist a b - k := by
  unfold alongAxis axisDir axisDist at *
  split_ifs <;> omega

theorem alongAxis_inj {l : Nat} : alongAxis a b k = alongAxis a b l ↔ k = l := by
  unfold alongAxis axisDir
  split_ifs <;> omega

/-- The coordinates between two are those within the distance, in its direction. -/
theorem between_iff_alongAxis {c : Int} :
    ((min a b : Nat) : Int) ≤ c ∧ c ≤ ((max a b : Nat) : Int) ↔ ∃ k ≤ axisDist a b, c = alongAxis a b k := by
  constructor
  · rintro ⟨hmin, hmax⟩
    refine ⟨(c - a).natAbs, ?_⟩
    unfold alongAxis axisDir axisDist
    split_ifs <;> omega
  · rintro ⟨k, hk, rfl⟩
    unfold alongAxis axisDir axisDist at *
    split_ifs <;> omega

end

section
variable (x1 y1 x2 y2 : Nat)

/-- The number of steps of the walk (41_rasterizers.md R107). -/
def lineSteps : Nat := max (axisDist x1 x2) (axisDist y1 y2)

/-- The walk's variables after `i` steps. -/
def lineStateAt (i : Nat) : LineState where
  x := alongAxis x1 x2 (lineShare (axisDist x1 x2) (lineSteps x1 y1 x2 y2) i)
  y := alongAxis y1 y2 (lineShare (axisDist y1 y2) (lineSteps x1 y1 x2 y2) i)
  err := axisDist x1 x2 * (lineShare (axisDist y1 y2) (lineSteps x1 y1 x2 y2) i + 1) -
    axisDist y1 y2 * (lineShare (axisDist x1 x2) (lineSteps x1 y1 x2 y2) i + 1)

/-- The pixel of the walk after `i` steps. -/
def linePoint (i : Nat) : Int × Int := ((lineStateAt x1 y1 x2 y2 i).x, (lineStateAt x1 y1 x2 y2 i).y)

theorem axisDist_le_lineSteps : axisDist x1 x2 ≤ lineSteps x1 y1 x2 y2 ∧ axisDist y1 y2 ≤ lineSteps x1 y1 x2 y2 :=
  ⟨le_max_left _ _, le_max_right _ _⟩

theorem axisDist_eq_lineSteps : axisDist x1 x2 = lineSteps x1 y1 x2 y2 ∨ axisDist y1 y2 = lineSteps x1 y1 x2 y2 := by
  unfold lineSteps
  omega

theorem lineStateAt_zero : lineStateAt x1 y1 x2 y2 0 = lineStart x1 y1 x2 y2 := by
  simp [lineStateAt, lineStart, absDiff_eq_axisDist]

theorem linePoint_zero : linePoint x1 y1 x2 y2 0 = ((x1 : Int), (y1 : Int)) := by
  simp [linePoint, lineStateAt]

theorem linePoint_lineSteps : linePoint x1 y1 x2 y2 (lineSteps x1 y1 x2 y2) = ((x2 : Int), (y2 : Int)) := by
  obtain ⟨hx, hy⟩ := axisDist_le_lineSteps x1 y1 x2 y2
  simp [linePoint, lineStateAt, lineShare_all hx, lineShare_all hy]

variable {x1 y1 x2 y2}

/-- Distinct steps are at distinct pixels: the longer coordinate moves every time. -/
theorem linePoint_inj {i j : Nat} (hi : i ≤ lineSteps x1 y1 x2 y2) (hj : j ≤ lineSteps x1 y1 x2 y2)
    (h : linePoint x1 y1 x2 y2 i = linePoint x1 y1 x2 y2 j) : i = j := by
  obtain ⟨hx, hy⟩ := Prod.ext_iff.1 h
  rcases axisDist_eq_lineSteps x1 y1 x2 y2 with hlonger | hlonger
  · simpa only [linePoint, lineStateAt, alongAxis_inj, hlonger, lineShare_of_longer hi, lineShare_of_longer hj] using hx
  · simpa only [linePoint, lineStateAt, alongAxis_inj, hlonger, lineShare_of_longer hi, lineShare_of_longer hj] using hy

/-- One iteration of the loop is one step of the closed form. -/
theorem lineStep_lineStateAt {i : Nat} (hi : i < lineSteps x1 y1 x2 y2) :
    lineStep (lineParams x1 y1 x2 y2) (lineStateAt x1 y1 x2 y2 i) = lineStateAt x1 y1 x2 y2 (i + 1) := by
  obtain ⟨hdx, hdy⟩ := axisDist_le_lineSteps x1 y1 x2 y2
  have hlonger := axisDist_eq_lineSteps x1 y1 x2 y2
  have hx := lineShare_succ_of_test hdx hdy hlonger hi
  have hy := lineShare_succ_of_test hdy hdx hlonger.symm hi
  simp only [lineStep, lineParams, lineStateAt, absDiff_eq_axisDist, hx, hy, gt_iff_lt, neg_lt_lineErr, lineErr_lt,
    decide_eq_true_eq]
  split_ifs <;> simp [alongAxis_succ, axisDir, *] <;> ring

/-- The walk is at the terminal pixel after its last step only. -/
theorem lineStateAt_terminal {i : Nat} (hi : i ≤ lineSteps x1 y1 x2 y2) :
    (lineStateAt x1 y1 x2 y2 i).x = x2 ∧ (lineStateAt x1 y1 x2 y2 i).y = y2 ↔ i = lineSteps x1 y1 x2 y2 := by
  rw [← Prod.mk.injEq, ← linePoint_lineSteps]
  exact ⟨linePoint_inj hi le_rfl, congrArg (linePoint x1 y1 x2 y2)⟩

/-- From step `i` on, the loop yields the pixels of the steps left, and stops after the last. -/
theorem lineLoop_lineStateAt {i m fuel : Nat} (hm : i + m = lineSteps x1 y1 x2 y2) (hfuel : m ≤ fuel) :
    lineLoop (lineParams x1 y1 x2 y2) fuel (lineStateAt x1 y1 x2 y2 i) =
      (List.range' i m).map (linePoint x1 y1 x2 y2) := by
  induction m generalizing i fuel with
  | zero => exact lineLoop_done ((lineStateAt_terminal hm.le).2 hm) fuel
  | succ m ih =>
    obtain ⟨fuel, rfl⟩ : ∃ k, fuel = k + 1 := ⟨fuel - 1, by omega⟩
    have hi : i < lineSteps x1 y1 x2 y2 := by omega
    rw [lineLoop_next (mt (lineStateAt_terminal hi.le).1 hi.ne), lineStep_lineStateAt hi, List.range'_succ,
      List.map_cons, ih (by omega) (by omega)]
    rfl

variable (x1 y1 x2 y2) in
/-- The walk in closed form: the terminal pixel, and then the pixels of the other steps in order. -/
theorem lineWalk_eq :
    lineWalk x1 y1 x2 y2 =
      linePoint x1 y1 x2 y2 (lineSteps x1 y1 x2 y2) ::
        (List.range (lineSteps x1 y1 x2 y2)).map (linePoint x1 y1 x2 y2) := by
  have hfuel : lineSteps x1 y1 x2 y2 ≤ (absDiff x1 x2).toNat + (absDiff y1 y2).toNat + 1 := by
    rw [lineSteps, absDiff_eq_axisDist, absDiff_eq_axisDist]
    omega
  rw [lineWalk, ← lineStateAt_zero, lineLoop_lineStateAt (Nat.zero_add _) hfuel, linePoint_lineSteps,
    List.range_eq_range']

theorem mem_lineWalk {p : Int × Int} :
    p ∈ lineWalk x1 y1 x2 y2 ↔ ∃ i ≤ lineSteps x1 y1 x2 y2, p = linePoint x1 y1 x2 y2 i := by
  rw [lineWalk_eq, List.mem_cons, List.mem_map]
  constructor
  · rintro (rfl | ⟨i, hi, rfl⟩)
    · exact ⟨_, le_rfl, rfl⟩
    · exact ⟨i, (List.mem_range.1 hi).le, rfl⟩
  · rintro ⟨i, hi, rfl⟩
    rcases hi.eq_or_lt with rfl | hi
    · exact .inl rfl
    · exact .inr ⟨i, List.mem_range.2 hi, rfl⟩

end

/-! ### The properties of the walk (41_rasterizers.md R107) -/

section
variable (x1 y1 x2 y2 : Nat)

theorem length_lineWalk : (lineWalk x1 y1 x2 y2).length = lineSteps x1 y1 x2 y2 + 1 := by
  rw [lineWalk_eq, List.length_cons, List.length_map, List.length_range]

theorem nodup_lineWalk : (lineWalk x1 y1 x2 y2).Nodup := by
  rw [lineWalk_eq, List.nodup_cons]
  constructor
  · intro hmem
    obtain ⟨i, hi, heq⟩ := List.mem_map.1 hmem
    rw [List.mem_range] at hi
    exact hi.ne (linePoint_inj hi.le le_rfl heq)
  · refine List.Nodup.map_on (fun i hi j hj => ?_) List.nodup_range
    rw [List.mem_range] at hi hj
    exact linePoint_inj hi.le hj.le

variable {x1 y1 x2 y2}

/-- The start is the second pixel, unless there is none. -/
theorem lineWalk_second (h : (x1, y1) ≠ (x2, y2)) : (lineWalk x1 y1 x2 y2)[1]? = some ((x1 : Int), (y1 : Int)) := by
  have hpos : 0 < lineSteps x1 y1 x2 y2 := by
    rw [Ne, Prod.mk.injEq] at h
    unfold lineSteps axisDist
    omega
  rw [lineWalk_eq, List.getElem?_cons_succ, List.getElem?_map, List.getElem?_range hpos, Option.map_some,
    linePoint_zero]

/-- Every pixel is between the endpoints. -/
theorem between_of_mem_lineWalk {p : Int × Int} (hp : p ∈ lineWalk x1 y1 x2 y2) :
    (((min x1 x2 : Nat) : Int) ≤ p.1 ∧ p.1 ≤ ((max x1 x2 : Nat) : Int)) ∧
      ((min y1 y2 : Nat) : Int) ≤ p.2 ∧ p.2 ≤ ((max y1 y2 : Nat) : Int) := by
  obtain ⟨i, hi, rfl⟩ := mem_lineWalk.1 hp
  obtain ⟨hdx, hdy⟩ := axisDist_le_lineSteps x1 y1 x2 y2
  exact ⟨between_iff_alongAxis.2 ⟨_, lineShare_le hdx hi, rfl⟩, between_iff_alongAxis.2 ⟨_, lineShare_le hdy hi, rfl⟩⟩

/-- A later pixel is no farther from the end, on either coordinate. -/
theorem natAbs_sub_linePoint_anti {i j : Nat} (hij : i ≤ j) (hj : j ≤ lineSteps x1 y1 x2 y2) :
    ((x2 : Int) - (linePoint x1 y1 x2 y2 j).1).natAbs ≤ ((x2 : Int) - (linePoint x1 y1 x2 y2 i).1).natAbs ∧
      ((y2 : Int) - (linePoint x1 y1 x2 y2 j).2).natAbs ≤ ((y2 : Int) - (linePoint x1 y1 x2 y2 i).2).natAbs := by
  obtain ⟨hdx, hdy⟩ := axisDist_le_lineSteps x1 y1 x2 y2
  simp only [linePoint, lineStateAt, natAbs_sub_alongAxis (lineShare_le hdx (hij.trans hj)),
    natAbs_sub_alongAxis (lineShare_le hdx hj), natAbs_sub_alongAxis (lineShare_le hdy (hij.trans hj)),
    natAbs_sub_alongAxis (lineShare_le hdy hj)]
  exact ⟨Nat.sub_le_sub_left (lineShare_mono _ _ hij) _, Nat.sub_le_sub_left (lineShare_mono _ _ hij) _⟩

/-- After the terminal pixel, the walk approaches it monotonically. -/
theorem lineWalk_tail_monotone :
    (lineWalk x1 y1 x2 y2).tail.Pairwise fun p q =>
      ((x2 : Int) - q.1).natAbs ≤ ((x2 : Int) - p.1).natAbs ∧
        ((y2 : Int) - q.2).natAbs ≤ ((y2 : Int) - p.2).natAbs := by
  rw [lineWalk_eq, List.tail_cons, List.pairwise_map]
  refine List.pairwise_lt_range.imp_of_mem fun _ hj hij => ?_
  exact natAbs_sub_linePoint_anti hij.le (List.mem_range.1 hj).le

end

/-- Settles O19: the properties read off the closed form, and the two walks of V-L4. -/
theorem lineWalkVisitsMaxPlusOnePoints : Obligations.LineWalkVisitsMaxPlusOnePoints := by
  refine ⟨fun x1 y1 x2 y2 => ⟨?_, nodup_lineWalk x1 y1 x2 y2, rfl, lineWalk_second, fun p hp => ?_,
    lineWalk_tail_monotone⟩, by decide, by decide⟩
  · rw [length_lineWalk, lineSteps, Nat.cast_add, Nat.cast_max]
    rfl
  · obtain ⟨⟨hx, hx'⟩, hy, hy'⟩ := between_of_mem_lineWalk hp
    exact ⟨hx, hx', hy, hy'⟩

end Sys2Proof
end

section
/-! The line and rectangle commands (41_rasterizers.md R106 to R110): which pixels they paint. -/

namespace Sys2Proof.Machine

/-- Settles O20: painting a list paints its in-range pixels. -/
theorem drawLinePaintsTheWalk : Obligations.DrawLinePaintsTheWalk :=
  ⟨selectedBy_row .drawLine, fun s x1 y1 x2 y2 c => ⟨_, rfl, paintedExactly_paint s (lineWalk x1 y1 x2 y2) c⟩⟩

section
variable {x1 y1 x2 y2 : Nat} {p : Nat × Nat}

/-- A pixel is in the box exactly when each coordinate is within its distance. -/
theorem inBox_iff_alongAxis :
    InBox x1 y1 x2 y2 p ↔
      (∃ i ≤ axisDist x1 x2, (p.1 : Int) = alongAxis x1 x2 i) ∧
        ∃ j ≤ axisDist y1 y2, (p.2 : Int) = alongAxis y1 y2 j := by
  rw [← between_iff_alongAxis, ← between_iff_alongAxis]
  unfold InBox
  omega

/-- A coordinate that keeps still, or steps every time, has no rounding. -/
theorem lineShare_of_straight {d n i : Nat} (hd : d = 0 ∨ d = n) (hi : i ≤ n) : lineShare d n i = min i d := by
  rcases hd with rfl | rfl
  · rw [lineShare_of_fixed, Nat.min_zero]
  · rw [lineShare_of_longer hi, min_eq_left hi]

/-- The walk when neither coordinate is rounded. -/
theorem onList_lineWalk_of_straight (hx : axisDist x1 x2 = 0 ∨ axisDist x1 x2 = lineSteps x1 y1 x2 y2)
    (hy : axisDist y1 y2 = 0 ∨ axisDist y1 y2 = lineSteps x1 y1 x2 y2) :
    OnList (lineWalk x1 y1 x2 y2) p ↔
      ∃ i ≤ lineSteps x1 y1 x2 y2, (p.1 : Int) = alongAxis x1 x2 (min i (axisDist x1 x2)) ∧
        (p.2 : Int) = alongAxis y1 y2 (min i (axisDist y1 y2)) := by
  refine mem_lineWalk.trans (exists_congr fun i => and_congr_right fun hi => ?_)
  simp only [linePoint, lineStateAt, lineShare_of_straight hx hi, lineShare_of_straight hy hi, Prod.mk.injEq]

/-- A horizontal or vertical line is the box of its endpoints (41_rasterizers.md R106). -/
theorem onList_lineWalk_of_axis (haxis : x1 = x2 ∨ y1 = y2) :
    OnList (lineWalk x1 y1 x2 y2) p ↔ InBox x1 y1 x2 y2 p := by
  refine ⟨inBox_of_mem_lineWalk haxis, fun hp => ?_⟩
  obtain ⟨⟨i, hi, hx⟩, j, hj, hy⟩ := inBox_iff_alongAxis.1 hp
  have hstill : axisDist x1 x2 = 0 ∨ axisDist y1 y2 = 0 := by
    rcases haxis with rfl | rfl
    · exact .inl (axisDist_self x1)
    · exact .inr (axisDist_self y1)
  have hsteps : lineSteps x1 y1 x2 y2 = max (axisDist x1 x2) (axisDist y1 y2) := rfl
  have hmin : min (max i j) (axisDist x1 x2) = i ∧ min (max i j) (axisDist y1 y2) = j := by omega
  refine (onList_lineWalk_of_straight (by omega) (by omega)).2 ⟨max i j, by omega, ?_⟩
  rw [hmin.1, hmin.2]
  exact ⟨hx, hy⟩

/-- With equal distances, the cross product of the two offsets vanishes exactly when both have gone equally far. -/
theorem cross_alongAxis_eq_iff (hdiag : axisDist x1 x2 = axisDist y1 y2) {i j : Nat} (hi : i ≤ axisDist x1 x2)
    (hj : j ≤ axisDist y1 y2) :
    (alongAxis x1 x2 i - x1) * ((y2 : Int) - y1) = (alongAxis y1 y2 j - y1) * ((x2 : Int) - x1) ↔ i = j := by
  have hx : (alongAxis x1 x2 i - x1) * ((y2 : Int) - y1) =
      axisDir x1 x2 * axisDir y1 y2 * (axisDist x1 x2 * i : Nat) := by
    rw [sub_eq_axisDir_mul, hdiag, alongAxis, Nat.cast_mul]
    ring
  have hy : (alongAxis y1 y2 j - y1) * ((x2 : Int) - x1) =
      axisDir x1 x2 * axisDir y1 y2 * (axisDist x1 x2 * j : Nat) := by
    rw [sub_eq_axisDir_mul, alongAxis, Nat.cast_mul]
    ring
  rw [hx, hy, mul_right_inj' (mul_ne_zero (axisDir_ne_zero _ _) (axisDir_ne_zero _ _)), Nat.cast_inj,
    mul_eq_mul_left_iff]
  omega

/-- An exact diagonal is the pixels of the box that go as far in x as in y (41_rasterizers.md R106). -/
theorem onList_lineWalk_of_diagonal (hdiag : axisDist x1 x2 = axisDist y1 y2) :
    OnList (lineWalk x1 y1 x2 y2) p ↔
      InBox x1 y1 x2 y2 p ∧ ((p.1 : Int) - x1) * ((y2 : Int) - y1) = ((p.2 : Int) - y1) * ((x2 : Int) - x1) := by
  have hsteps : lineSteps x1 y1 x2 y2 = max (axisDist x1 x2) (axisDist y1 y2) := rfl
  rw [onList_lineWalk_of_straight (by omega) (by omega), inBox_iff_alongAxis]
  constructor
  · rintro ⟨i, hi, hx, hy⟩
    rw [min_eq_left (by omega)] at hx hy
    refine ⟨⟨⟨i, by omega, hx⟩, i, by omega, hy⟩, ?_⟩
    rw [hx, hy, cross_alongAxis_eq_iff hdiag (by omega) (by omega)]
  · rintro ⟨⟨⟨i, hi, hx⟩, j, hj, hy⟩, hcross⟩
    rw [hx, hy, cross_alongAxis_eq_iff hdiag hi hj] at hcross
    subst hcross
    exact ⟨i, by omega, by rwa [min_eq_left hi], by rwa [min_eq_left hj]⟩

/-- The outline of DRAW_RECT is the boundary of its box: each edge is a whole side (41_rasterizers.md R110). -/
theorem onList_rectOutline : OnList (rectOutline x1 y1 x2 y2) p ↔ OnBoxBoundary x1 y1 x2 y2 p := by
  refine ⟨onBoxBoundary_of_mem_rectOutline, ?_⟩
  rintro ⟨hbox, hside⟩
  have hedge : ((InBox x1 y1 x2 y1 p ∨ InBox x2 y1 x2 y2 p) ∨ InBox x2 y2 x1 y2 p) ∨ InBox x1 y2 x1 y1 p := by
    unfold InBox at *
    omega
  simp only [OnList, rectOutline, List.mem_append]
  exact hedge.imp
    (Or.imp (Or.imp (onList_lineWalk_of_axis (.inr rfl)).2 (onList_lineWalk_of_axis (.inl rfl)).2)
      (onList_lineWalk_of_axis (.inr rfl)).2)
    (onList_lineWalk_of_axis (.inl rfl)).2

theorem onList_rectBox : OnList (rectBox x1 y1 x2 y2) p ↔ InBox x1 y1 x2 y2 p :=
  ⟨inBox_of_mem_rectBox, fun h => mem_rectBox.2 ⟨p.1, p.2, rfl, h⟩⟩

end

/-- Settles O21: the walk is the box, or its diagonal. -/
theorem straightLinesPaintEveryPointBetween : Obligations.StraightLinesPaintEveryPointBetween := by
  refine fun s x1 y1 x2 y2 c => ⟨fun haxis => ⟨_, rfl, ?_⟩, fun hdiag => ⟨_, rfl, ?_⟩⟩
  · exact (paintedExactly_paint s _ c).congr fun _ _ _ => onList_lineWalk_of_axis haxis.symm
  · exact (paintedExactly_paint s _ c).congr fun _ _ _ => onList_lineWalk_of_diagonal (Int.ofNat.inj hdiag)

/-- Settles O22: the four lines are the four sides. -/
theorem drawRectPaintsTheBoundary : Obligations.DrawRectPaintsTheBoundary :=
  ⟨selectedBy_row .drawRect, fun s _ _ _ _ c =>
    ⟨_, rfl, (paintedExactly_paint s _ c).congr fun _ _ _ => onList_rectOutline⟩⟩

/-- Settles O23: the rows are the box. -/
theorem fillRectPaintsTheBox : Obligations.FillRectPaintsTheBox :=
  ⟨selectedBy_row .fillRect, fun s _ _ _ _ c =>
    ⟨_, rfl, (paintedExactly_paint s _ c).congr fun _ _ _ => onList_rectBox⟩⟩

end Sys2Proof.Machine
end

section
/-! The circle walk (41_rasterizers.md R111, R112): its error term in closed form, where it ends, and the
heights it visits. -/

namespace Sys2Proof

/-! ### One step -/

/-- Test 2 on the error term, or on the 0 that the step in y has put in its place (41_rasterizers.md R111). -/
abbrev CircleStepsX (s : CircleState) : Prop := s.x < s.err ∨ s.err ≤ s.y ∧ -s.x = s.y + 1 ∧ s.x < 0

/-- Each test moves its coordinate by one, and the error term with it (41_rasterizers.md R111). -/
theorem circleStep_eq (s : CircleState) :
    circleStep s =
      { x := s.x + if CircleStepsX s then 1 else 0
        y := s.y + if s.err ≤ s.y then 1 else 0
        err := s.err + (if s.err ≤ s.y then 2 * s.y + 3 else 0) + if CircleStepsX s then 2 * s.x + 3 else 0 } := by
  simp only [circleStep, decide_eq_true_eq]
  split_ifs <;> simp <;> omega

theorem circleStep_x (s : CircleState) : (circleStep s).x = s.x + if CircleStepsX s then 1 else 0 := by
  rw [circleStep_eq]

theorem circleStep_y (s : CircleState) : (circleStep s).y = s.y + if s.err ≤ s.y then 1 else 0 := by
  rw [circleStep_eq]

/-- A step moves each coordinate up by at most one. -/
theorem circleStep_bounds (s : CircleState) :
    (s.x ≤ (circleStep s).x ∧ (circleStep s).x ≤ s.x + 1) ∧ s.y ≤ (circleStep s).y ∧ (circleStep s).y ≤ s.y + 1 := by
  rw [circleStep_x, circleStep_y]
  split_ifs <;> omega

/-- In the walk's quadrant a step moves at least one coordinate: test 2 holds where test 1 fails. -/
theorem circleStep_progress {s : CircleState} (hx : s.x ≤ 0) (hy : 0 ≤ s.y) :
    s.x + s.y < (circleStep s).x + (circleStep s).y := by
  have htests : s.err ≤ s.y ∨ CircleStepsX s := (le_or_gt s.err s.y).imp_right fun h => .inl (by omega)
  rw [circleStep_x, circleStep_y]
  split_ifs <;> omega

/-! ### The loop -/

theorem mem_circleLoop_succ {fuel : Nat} {s t : CircleState} :
    t ∈ circleLoop (fuel + 1) s ↔ t = s ∨ (circleStep s).x ≤ 0 ∧ t ∈ circleLoop fuel (circleStep s) := by
  rw [circleLoop_succ, List.mem_cons]
  split_ifs with hend
  · simp [not_le.2 hend]
  · simp [not_lt.1 hend]

/-- No state of the loop is below its first, on either coordinate. -/
theorem le_of_mem_circleLoop {fuel : Nat} {s t : CircleState} (ht : t ∈ circleLoop fuel s) : s.x ≤ t.x ∧ s.y ≤ t.y := by
  induction fuel generalizing s with
  | zero => simp [circleLoop] at ht
  | succ fuel ih =>
    rcases mem_circleLoop_succ.1 ht with rfl | ⟨-, ht⟩
    · exact ⟨le_rfl, le_rfl⟩
    · have hstep := circleStep_bounds s
      have hrest := ih ht
      omega

theorem circleLoop_monotone (fuel : Nat) (s : CircleState) :
    (circleLoop fuel s).Pairwise fun t u => t.x ≤ u.x ∧ t.y ≤ u.y := by
  induction fuel generalizing s with
  | zero => exact .nil
  | succ fuel ih =>
    rw [circleLoop_succ, List.pairwise_cons]
    refine ⟨fun t ht => le_of_mem_circleLoop (fuel := fuel + 1) ?_, ?_⟩
    · rw [circleLoop_succ]
      exact List.mem_cons_of_mem _ ht
    · split_ifs
      · exact .nil
      · exact ih _

/-- No height is skipped: y rises by at most one a step, and x only grows. -/
theorem exists_mem_circleLoop_of_height {fuel : Nat} {s t : CircleState} (ht : t ∈ circleLoop fuel s) {h : Int}
    (hlow : s.y ≤ h) (hhigh : h ≤ t.y) : ∃ u ∈ circleLoop fuel s, u.y = h ∧ u.x ≤ t.x := by
  induction fuel generalizing s with
  | zero => simp [circleLoop] at ht
  | succ fuel ih =>
    by_cases hs : h = s.y
    · exact ⟨s, mem_circleLoop_succ.2 (.inl rfl), hs.symm, (le_of_mem_circleLoop ht).1⟩
    · rcases mem_circleLoop_succ.1 ht with rfl | ⟨hgo, ht⟩
      · omega
      · have hstep := circleStep_bounds s
        obtain ⟨u, hu, huh, hux⟩ := ih ht (by omega)
        exact ⟨u, mem_circleLoop_succ.2 (.inr ⟨hgo, hu⟩), huh, hux⟩

/-! ### The invariant of the walk -/

/-- The error term measures the next diagonal pixel against the circle; the walk leaves the bottom row at once, and
comes to the last column at the top only. -/
structure OnCircleWalk (r : Nat) (s : CircleState) : Prop where
  x_le : s.x ≤ 0
  y_nonneg : 0 ≤ s.y
  y_le : s.y ≤ r
  err_eq : s.err = (s.x + 1) ^ 2 + (s.y + 1) ^ 2 - (r : Int) ^ 2
  bottom : s.y = 0 → s.x = -r
  top : s.x = 0 → s.y = r

theorem onCircleWalk_circleStart (r : Nat) : OnCircleWalk r (circleStart r) where
  x_le := by simp [circleStart]
  y_nonneg := le_rfl
  y_le := by simp [circleStart]
  err_eq := by simp only [circleStart]; ring
  bottom _ := rfl
  top hx := by
    simp only [circleStart] at hx ⊢
    omega

section
variable {r : Nat} {s : CircleState} (h : OnCircleWalk r s)
include h

/-- At the height of the radius the walk has stopped rising. -/
theorem OnCircleWalk.y_lt_of_rises (hrise : s.err ≤ s.y) : s.y < r := by
  refine lt_of_le_of_ne h.y_le fun hy => ?_
  have herr := h.err_eq
  rw [hy] at herr hrise
  nlinarith [sq_nonneg (s.x + 1)]

/-- From the bottom row the walk rises, unless the circle is a point. -/
theorem OnCircleWalk.rises_from_bottom (hx : s.x < 0) (hy : s.y = 0) : s.err ≤ s.y := by
  have hbottom := h.bottom hy
  have herr : s.err = 2 - 2 * r := by rw [h.err_eq, hbottom, hy]; ring
  omega

/-- Where the walk enters the last column it is at the top. -/
theorem OnCircleWalk.circleStep_top (hx : s.x < 0) (hend : (circleStep s).x = 0) : (circleStep s).y = r := by
  have hy := h.y_nonneg
  have hle := h.y_le
  rw [circleStep_x] at hend
  split_ifs at hend with hstepX
  · have herr : s.err = (s.y + 1) ^ 2 - (r : Int) ^ 2 := by
      rw [h.err_eq, show s.x = -1 by omega]
      ring
    rw [circleStep_y]
    split_ifs with hrise
    · have hlt := h.y_lt_of_rises hrise
      suffices (r : Int) ≤ s.y + 1 by omega
      rcases hstepX with hstepX | ⟨-, hcorner, -⟩
      · exact le_of_sq_le_sq (by omega) (by omega)
      · have := h.bottom (by omega)
        omega
    · by_contra hne
      have : (s.y + 1) ^ 2 ≤ (r : Int) ^ 2 := pow_le_pow_left₀ (by omega) (by omega) 2
      omega
  · omega

/-- At the top the walk leaves the last column. -/
theorem OnCircleWalk.circleStep_x_of_top (hx : s.x = 0) : (circleStep s).x = 1 := by
  have herr : s.err = 2 * r + 2 := by rw [h.err_eq, hx, h.top hx]; ring
  rw [circleStep_x, if_pos (.inl (by omega)), hx, zero_add]

/-- A step that stays in the quadrant keeps the invariant. -/
theorem OnCircleWalk.circleStep (hgo : (circleStep s).x ≤ 0) : OnCircleWalk r (circleStep s) := by
  have hy := h.y_nonneg
  have hx : s.x < 0 := by
    refine lt_of_le_of_ne h.x_le fun hx => ?_
    have := h.circleStep_x_of_top hx
    omega
  refine ⟨hgo, hy.trans (circleStep_bounds s).2.1, ?_, ?_, fun hbottom => ?_, h.circleStep_top hx⟩
  · rw [circleStep_y]
    split_ifs with hrise
    · exact h.y_lt_of_rises hrise
    · rw [add_zero]
      exact h.y_le
  · rw [circleStep_eq]
    dsimp only
    split_ifs <;> rw [h.err_eq] <;> ring
  · rw [circleStep_y] at hbottom
    split_ifs at hbottom with hrise
    · omega
    · exact absurd (h.rises_from_bottom hx (by omega)) hrise

/-- The loop, with fuel for every step left, ends at the top, from where x would be 1 (41_rasterizers.md R112). -/
theorem OnCircleWalk.getLast_circleLoop {fuel : Nat} (hfuel : r - s.x - s.y < fuel) :
    ∃ t, (circleLoop fuel s).getLast? = some t ∧ (t.x = 0 ∧ t.y = r) ∧ (Sys2Proof.circleStep t).x = 1 := by
  induction fuel generalizing s with
  | zero =>
    have := h.x_le
    have := h.y_le
    omega
  | succ fuel ih =>
    have hstep := circleStep_bounds s
    have hprogress := circleStep_progress h.x_le h.y_nonneg
    rw [circleLoop_succ]
    split_ifs with hend
    · have hx : s.x = 0 := by have := h.x_le; omega
      exact ⟨s, rfl, ⟨hx, h.top hx⟩, h.circleStep_x_of_top hx⟩
    · obtain ⟨t, ht, htop⟩ := ih (h.circleStep (not_lt.1 hend)) (by omega)
      exact ⟨t, by rw [List.getLast?_cons, ht, Option.getD_some], htop⟩

/-- The sum of the coordinates grows with every step, so the loop has no more states than values left for it. -/
theorem OnCircleWalk.length_circleLoop_le (fuel : Nat) : (circleLoop fuel s).length ≤ r - s.x - s.y + 1 := by
  have hx := h.x_le
  have hy := h.y_le
  induction fuel generalizing s with
  | zero =>
    rw [circleLoop]
    simp only [List.length_nil]
    omega
  | succ fuel ih =>
    have hprogress := circleStep_progress h.x_le h.y_nonneg
    rw [circleLoop_succ, List.length_cons]
    split_ifs with hend
    · simp only [List.length_nil]
      omega
    · have hnext := h.circleStep (not_lt.1 hend)
      have := ih hnext hnext.x_le hnext.y_le
      omega

end

/-! ### The walk -/

section
variable {r : Nat}

/-- No height up to that of a step is skipped, and the step there is at least as wide. -/
theorem exists_mem_circleWalk_of_height {q : Int × Int} (hq : q ∈ circleWalk r) {h : Int} (hlow : 0 ≤ h)
    (hhigh : h ≤ q.2) : ∃ q' ∈ circleWalk r, q'.2 = h ∧ q'.1 ≤ q.1 := by
  obtain ⟨t, ht, rfl⟩ := List.mem_map.1 hq
  obtain ⟨u, hu, huh, hux⟩ := exists_mem_circleLoop_of_height ht hlow hhigh
  exact ⟨(u.x, u.y), List.mem_map_of_mem hu, huh, hux⟩

theorem circleWalk_monotone (r : Nat) : (circleWalk r).Pairwise fun p q => p.1 ≤ q.1 ∧ p.2 ≤ q.2 :=
  List.pairwise_map.2 (circleLoop_monotone _ _)

theorem length_circleWalk_le (r : Nat) : (circleWalk r).length ≤ 2 * r + 1 := by
  have hlength := (onCircleWalk_circleStart r).length_circleLoop_le (2 * r + 2)
  rw [circleWalk, List.length_map, circleStates]
  simp only [circleStart] at *
  omega

/-- The walk ends at the top, from where x would be 1. -/
theorem getLast_circleStates (r : Nat) :
    ∃ t, (circleStates r).getLast? = some t ∧ (t.x = 0 ∧ t.y = r) ∧ (circleStep t).x = 1 :=
  (onCircleWalk_circleStart r).getLast_circleLoop (by simp only [circleStart]; omega)

end

/-- Settles O24: the invariant at the last state, and the growth of both coordinates; for every radius. -/
theorem circleWalkEndsAtTheTop : Obligations.CircleWalkEndsAtTheTop := by
  intro r _
  obtain ⟨t, ht, ⟨hx, hy⟩, hnext⟩ := getLast_circleStates r
  refine ⟨?_, ?_, length_circleWalk_le r, circleWalk_monotone r⟩
  · rw [circleWalk, List.getLast?_map, ht, Option.map_some, hx, hy]
  · rw [ht, Option.map_some, hnext]

end Sys2Proof
end

section
/-! The circle commands (41_rasterizers.md R113 to R116): which pixels they paint. -/

namespace Sys2Proof.Machine

section
variable {cx cy r : Nat} {p : Nat × Nat}

/-- DRAW_CIRCLE plots the points at the offsets of the walk, up to signs (41_rasterizers.md R113). -/
theorem onList_circleOutline : OnList (circleOutline cx cy r) p ↔ OnCircle cx cy r p := by
  refine ⟨onCircle_of_mem_circleOutline, ?_⟩
  rintro ⟨q, hq, hx, hy⟩
  refine List.mem_flatMap.2 ⟨q, hq, mem_circlePoints.2 ?_⟩
  unfold gap at hx hy
  omega

/-- FILL_CIRCLE plots the spans of the walk (41_rasterizers.md R115). -/
theorem onList_circleDisc : OnList (circleDisc cx cy r) p ↔ InDisc cx cy r p := by
  refine ⟨inDisc_of_mem_circleDisc, ?_⟩
  rintro ⟨q, hq, hx, hy⟩
  refine List.mem_flatMap.2 ⟨q, hq, mem_circleSpans.2 ?_⟩
  unfold gap at hx hy
  omega

end

/-- A command that plots a set from an in-range centre, and nothing from another (41_rasterizers.md R113, R115). -/
theorem paintedExactly_of_centre {s : State} {cx cy : Nat} {pts : List (Int × Int)} {S : Nat × Nat → Prop} {c : Colour}
    {out : Host.Outcome State Fault Refusal}
    (hout : out = .next (if cx ≥ s.cfg.width ∨ cy ≥ s.cfg.height then s else s.paint pts c))
    (hS : ∀ p, OnList pts p ↔ S p) :
    (cx < s.cfg.width ∧ cy < s.cfg.height → ∃ t, out = .next t ∧ PaintedExactly s t S c) ∧
      (cx ≥ s.cfg.width ∨ cy ≥ s.cfg.height → out = .next s) := by
  refine ⟨fun hin => ⟨s.paint pts c, ?_, (paintedExactly_paint s pts c).congr fun p _ _ => hS p⟩, fun hoff => ?_⟩
  · rw [hout, if_neg (by omega)]
  · rw [hout, if_pos hoff]

/-- Settles O25: the points plotted are those of the walk. -/
theorem drawCirclePaintsTheFourPointsOfEachStep : Obligations.DrawCirclePaintsTheFourPointsOfEachStep :=
  ⟨selectedBy_row .drawCircle, fun _ _ _ _ _ => paintedExactly_of_centre rfl fun _ => onList_circleOutline⟩

/-- Settles O27: the points plotted are those of the spans. -/
theorem fillCirclePaintsTheSpansOfEachStep : Obligations.FillCirclePaintsTheSpansOfEachStep :=
  ⟨selectedBy_row .fillCircle, fun _ _ _ _ _ => paintedExactly_of_centre rfl fun _ => onList_circleDisc⟩

/-- Mirroring about the centre's column exchanges the two points of each row of a step. -/
theorem circlePoints_mirrorColumns (cx cy : Int) (q : Int × Int) :
    ((circlePoints cx cy q).map fun p => (2 * cx - p.1, p.2)).Perm (circlePoints cx cy q) := by
  have hleft : 2 * cx - (cx - q.1) = cx + q.1 := by ring
  have hright : 2 * cx - (cx + q.1) = cx - q.1 := by ring
  simp only [circlePoints, List.map_cons, List.map_nil, hleft, hright]
  exact (List.Perm.swap _ _ _).trans (((List.Perm.swap _ _ _).cons _).cons _)

/-- Mirroring about the centre's row turns the four points of a step around. -/
theorem circlePoints_mirrorRows (cx cy : Int) (q : Int × Int) :
    ((circlePoints cx cy q).map fun p => (p.1, 2 * cy - p.2)).Perm (circlePoints cx cy q) := by
  have hbelow : 2 * cy - (cy + q.2) = cy - q.2 := by ring
  have habove : 2 * cy - (cy - q.2) = cy + q.2 := by ring
  simp only [circlePoints, List.map_cons, List.map_nil, hbelow, habove]
  exact List.reverse_perm (circlePoints cx cy q)

/-- Settles O26: each step's four points are mirrored into each other. -/
theorem circleOutlineIsSymmetric : Obligations.CircleOutlineIsSymmetric := by
  intro cx cy r
  simp only [circleOutline, List.map_flatMap]
  exact ⟨.flatMap_left _ fun q _ => circlePoints_mirrorColumns cx cy q,
    .flatMap_left _ fun q _ => circlePoints_mirrorRows cx cy q⟩

/-- Settles O28: the outline is the ends of the spans; and a box's row is a span of the step at its height, which is at
least as wide. -/
theorem discIsTheUnionOfTheStepBoxes : Obligations.DiscIsTheUnionOfTheStepBoxes := by
  refine fun cx cy r => ⟨?_, fun p => ⟨?_, ?_⟩⟩
  · rintro p ⟨q, hq, hx, hy⟩
    exact ⟨q, hq, hx.le, hy⟩
  · rintro ⟨q, hq, hx, hy⟩
    exact ⟨q, hq, hx, hy.le⟩
  · rintro ⟨q, hq, hx, hy⟩
    obtain ⟨q', hq', hheight, hwidth⟩ := exists_mem_circleWalk_of_height hq (Int.natCast_nonneg _) hy
    exact ⟨q', hq', hx.trans (neg_le_neg hwidth), hheight.symm⟩

end Sys2Proof.Machine
end

section
/-! The transform commands (42_transforms.md), and what they leave to the drawing commands: nothing (R128). -/

namespace Sys2Proof.Machine

/-! ### SET_CURSOR and GET_CURSOR -/

/-- Narrowing loses nothing of a value in [-255, 255] (42_transforms.md R123). -/
theorem toInt_ofInt_of_bounds {v : Int} (h : -255 ≤ v ∧ v ≤ 255) : (BitVec.ofInt 16 v).toInt = v := by
  rw [BitVec.toInt_ofInt]
  exact Int.bmod_eq_of_le (by norm_num; omega) (by norm_num; omega)

/-- Settles O29: the transformed point lies in [-255, 255], so narrowing keeps it. -/
theorem setCursorStoresTheTransformedPoint : Obligations.SetCursorStoresTheTransformedPoint := by
  refine ⟨selectedBy_row .setCursor, fun s x y hx hy => ⟨_, rfl, rfl, ?_⟩⟩
  rw [State.setCursor_cursorX, State.setCursor_cursorY, toInt_ofInt_of_bounds (cursorXOf_bounds _ _ hx),
    toInt_ofInt_of_bounds (cursorYOf_bounds _ _ hy)]
  refine ⟨fun hr => ?_, fun hr => ?_⟩ <;> rw [hr] <;> exact ⟨rfl, rfl⟩

/-- Settles O30: the two registers are the halves of RESULT. -/
theorem getCursorReportsTheCursor : Obligations.GetCursorReportsTheCursor :=
  ⟨selectedBy_row .getCursor, fun _ =>
    ⟨_, rfl, rfl, BitVec.extractLsb'_append_eq_left, BitVec.extractLsb'_append_eq_right⟩⟩

/-! ### SET_ROTATED and GET_ROTATED -/

/-- With no reserved bit of SET_ROTATED set, the flag field is 0 or 1 (30_encoding.md R71, R73). -/
theorem eField_le_one_of_setRotated {w : Word64} (h : w &&& Opcode.setRotated.rsvMask = 0#64) :
    (eField w).toNat ≤ 1 := by
  obtain ⟨-, -, -, -, -, -, he⟩ := (and_rsvMask_eq_zero w .setRotated).1 h
  have hflag : eField w &&& 1#16 = eField w := and_not_of_and_eq_zero he
  rw [← hflag, BitVec.toNat_and]
  exact Nat.and_le_right

/-- Bit 3 of STATUS shows ROTATION (10_state.md R25). -/
theorem State.status_getLsbD_rotated (s : State) : s.status.getLsbD 3 = decide (s.rotation = .rotated180) := by
  have hbit : s.status.getLsbD 3 = s.rotation.bit.getLsbD 0 := by
    simp only [State.status, BitVec.getLsbD_append]
    simp
  rw [hbit]
  cases s.rotation <;> rfl

/-- Settles O31: a word with a larger value has a reserved bit set; the rest is the command's meaning. -/
theorem setRotatedWritesOnlyRotation : Obligations.SetRotatedWritesOnlyRotation := by
  refine ⟨selectedBy_row .setRotated, fun w hop he => decode_of_reserved (o := .setRotated) hop.symm fun hrsv => ?_,
    fun s => ⟨rfl, rfl, s.status_getLsbD_rotated⟩⟩
  exact absurd (eField_le_one_of_setRotated hrsv) (not_le.2 he)

/-- RESULT of GET_ROTATED is a flag (42_transforms.md R131). -/
theorem rotationResult_eq (r : Rotation) : rotationResult r = if r = .rotated180 then 1#32 else 0#32 := by
  cases r <;> rfl

/-- Settles O32: RESULT is that flag. -/
theorem getRotatedReportsTheRotation : Obligations.GetRotatedReportsTheRotation := by
  refine ⟨selectedBy_row .getRotated, fun s => ?_⟩
  rw [← rotationResult_eq]
  rfl

end Sys2Proof.Machine
end

section
/-! Drawing depends on the framebuffer, the size of the panel and the bitmap source, and on nothing else of the state
(42_transforms.md R128). -/

namespace Sys2Proof.Machine

/-- The states agree on all that drawing and READ_PIXEL read (40_bitpacker.md R89 to R97): the framebuffer with its
draw, the panel's size, and the source bytes. -/
structure SameCanvas (s s' : State) : Prop where
  fb : s'.fb = s.fb
  fbEpoch : s'.fbEpoch = s.fbEpoch
  width : s'.cfg.width = s.cfg.width
  height : s'.cfg.height = s.cfg.height
  srcRead : s'.srcRead = s.srcRead

section
variable {s s' t t' : State} (h : SameCanvas s s')
include h

/-- A plot is clipped to the panel and placed by its width (40_bitpacker.md R89). -/
theorem SameCanvas.plotMem : plotMem s'.cfg = Machine.plotMem s.cfg := by
  funext draw c m p
  simp only [Machine.plotMem, Config.InRange, Config.index, h.width, h.height]

theorem SameCanvas.paint_fb (pts : List (Int × Int)) (c : Colour) : (s'.paint pts c).fb = (s.paint pts c).fb := by
  rw [State.paint_fb, State.paint_fb, h.plotMem, h.fbEpoch, h.fb]

theorem SameCanvas.fillFb_fb (v : Byte) : (s'.fillFb v).fb = (s.fillFb v).fb := by
  rw [State.fillFb_fb, State.fillFb_fb, Config.fbLen, Config.fbLen, h.width, h.height, h.fb]

theorem SameCanvas.pixel (x y : Nat) : s'.pixel x y = s.pixel x y := by
  simp only [State.pixel, State.fbRead, Config.index, h.fb, h.fbEpoch, h.width]

/-- A command that draws only from an in-range origin. -/
theorem SameCanvas.paint_of_origin_fb (x y : Nat) (pts : List (Int × Int)) (c : Colour) :
    (if x ≥ s'.cfg.width ∨ y ≥ s'.cfg.height then s' else s'.paint pts c).fb =
      (if x ≥ s.cfg.width ∨ y ≥ s.cfg.height then s else s.paint pts c).fb := by
  rw [h.width, h.height]
  split_ifs
  · exact h.fb
  · exact h.paint_fb pts c

/-- A command without FB in its row of the access matrix leaves both framebuffers (10_state.md R41). -/
theorem SameCanvas.fb_of_changedOnly {w : Writes} (ht : ChangedOnly w s t) (ht' : ChangedOnly w s' t')
    (hw : w.fb = false) : t'.fb = t.fb := by
  rw [ht.fb_eq hw, ht'.fb_eq hw, h.fb]

/-- Every command leaves the same framebuffer in both states. -/
theorem SameCanvas.exec_fb {i : Instr} (ht : exec i s = .next t) (ht' : exec i s' = .next t') : t'.fb = t.fb := by
  cases i with
  | setPixel | drawLine | drawRect | fillRect =>
    cases ht
    cases ht'
    exact h.paint_fb _ _
  | fill =>
    cases ht
    cases ht'
    exact h.fillFb_fb _
  | drawBitmap =>
    cases ht
    cases ht'
    rw [h.srcRead]
    exact h.paint_of_origin_fb _ _ _ _
  | drawCircle | fillCircle =>
    cases ht
    cases ht'
    exact h.paint_of_origin_fb _ _ _ _
  | nop | clearErr | readPixel | readByte | setCursor | getCursor | setRotated | getRotated | init | flush =>
    exact h.fb_of_changedOnly (exec_changedOnly ht) (exec_changedOnly ht') rfl

/-- READ_PIXEL reports the same pixel in both states. -/
theorem SameCanvas.exec_readPixel_result {x y : Nat} (ht : exec (.readPixel x y) s = .next t)
    (ht' : exec (.readPixel x y) s' = .next t') : t'.result = t.result := by
  cases ht
  cases ht'
  rw [State.setResult_result, State.setResult_result, h.width, h.height, h.pixel]

/-- Every command answers in both states, with the same framebuffer and, for READ_PIXEL, the same RESULT. -/
theorem SameCanvas.exec_agrees {i : Instr} (ht : exec i s = .next t) :
    ∃ t', exec i s' = .next t' ∧ t'.fb = t.fb ∧ ∀ x y, i = .readPixel x y → t'.result = t.result := by
  obtain ⟨t', ht'⟩ := exec_next i s'
  refine ⟨t', ht', h.exec_fb ht ht', ?_⟩
  rintro x y rfl
  exact h.exec_readPixel_result ht ht'

end

/-- Settles O37: the changed fields are none that drawing reads. -/
theorem drawingIgnoresTheDisplayState : Obligations.DrawingIgnoresTheDisplayState := by
  intro i s t xo yo cx cy r p tx e v q ht
  refine SameCanvas.exec_agrees ?_ ht
  exact ⟨rfl, rfl, rfl, rfl, rfl⟩

end Sys2Proof.Machine
end

section
/-! The sequencer: what INIT and FLUSH emit (43_sequencer.md R136 to R144), that only FLUSH reads PSTATE (R149), and what an
acceptance does to the queue and to PSTATE (R134, R140). -/

namespace Sys2Proof.Machine

/-! ### INIT -/

/-- The reset sequence is empty but for SPI (43_sequencer.md R136). -/
theorem resetSeq_eq (tr : Transport) :
    resetSeq tr =
      if tr = .spi then [⟨.reset, [0x00#8]⟩, ⟨.delay, [10#8]⟩, ⟨.reset, [0x01#8]⟩, ⟨.delay, [10#8]⟩] else [] := by
  cases tr <;> rfl

/-- Settles O33: `Advance()` from Resetting leaves PSTATE at the first phase still queued. -/
theorem initEmitsBothSequences : Obligations.InitEmitsBothSequences := by
  refine ⟨selectedBy_row .init, fun s bind => (execInit_eq bind s).trans ?_⟩
  simp only [State.advance, advance_pstate_cases, resetSeq_eq, configSeq, List.map_map]
  rfl

/-! ### FLUSH -/

section
variable {s : State}

/-- FLUSH before Ready under the policy Reject raises NOT_READY (43_sequencer.md R142). -/
theorem exec_flush_of_rejected (h : s.pstate ≠ .ready ∧ s.cfg.flushBeforeReady = .reject) :
    exec .flush s = .next (s.raiseCmdError .notReady) :=
  congrArg Host.Outcome.next (if_pos h)

/-- FLUSH in Ready, or under the policy Emit, emits its messages if a transport is bound (43_sequencer.md R142). -/
theorem exec_flush_of_emitting (h : s.pstate = .ready ∨ s.cfg.flushBeforeReady = .emit) :
    exec .flush s = .next
      { s with outq := if s.txBound then s.outq ++ s.flushMessages.map (Tagged.mk .page) else s.outq } := by
  have hemit : ¬(s.pstate ≠ .ready ∧ s.cfg.flushBeforeReady = .reject) := by
    rcases h with h | h <;> simp [h]
  exact congrArg Host.Outcome.next ((if_neg hemit).trans (s.emitAll_eq .page s.flushMessages))

end

/-- The messages of a FLUSH with their tag, page by page (43_sequencer.md R138, R142). -/
theorem State.flushMessages_tagged (s : State) :
    s.flushMessages.map (Tagged.mk .page) =
      (List.range s.cfg.pages).flatMap fun p => (s.pageMessages p).map (Tagged.mk .page) :=
  List.map_flatMap

/-- Settles O34: the rejected and the emitting FLUSH, with the messages written out. -/
theorem flushEmitsFourMessagesAPage : Obligations.FlushEmitsFourMessagesAPage := by
  refine ⟨selectedBy_row .flush, fun s => ⟨exec_flush_of_rejected, fun h => ?_⟩⟩
  rw [exec_flush_of_emitting h, s.flushMessages_tagged]
  simp only [State.pageMessages, colLo, Nat.zero_add]
  rfl

/-- `n` blocks of `w` indices, one after the other, are all indices below `n * w` (20_memory.md R51). -/
theorem flatMap_range_blocks (w n : Nat) :
    ((List.range n).flatMap fun p => (List.range w).map fun k => p * w + k) = List.range (n * w) := by
  induction n with
  | zero => simp
  | succ n ih =>
    rw [List.range_succ, List.flatMap_append, ih, List.flatMap_singleton, Nat.succ_mul, List.range_add]

/-- The bytes of the pages, in order, are the framebuffer in index order (20_memory.md R51). -/
theorem State.flatMap_pageBytes (s : State) :
    (List.range s.cfg.pages).flatMap s.pageBytes = (List.range s.cfg.fbLen).map s.fbRead := by
  rw [Config.fbLen_eq, Nat.mul_comm, ← flatMap_range_blocks, List.map_flatMap]
  simp only [List.map_map]
  rfl

/-- Of the messages of a FLUSH, those that satisfy `f` are those of each page that do. -/
theorem State.filter_flushMessages (s : State) (f : Message → Bool) :
    s.flushMessages.filter f = (List.range s.cfg.pages).flatMap fun p => (s.pageMessages p).filter f :=
  List.filter_flatMap

/-- A FLUSH emits as many messages that satisfy `f` as there are pages, times the number of them in each. -/
theorem State.length_filter_flushMessages (s : State) {f : Message → Bool} {n : Nat}
    (h : ∀ p, ((s.pageMessages p).filter f).length = n) : (s.flushMessages.filter f).length = n * s.cfg.pages := by
  simp [State.filter_flushMessages, List.length_flatMap, h, Nat.mul_comm]

theorem State.length_pageBytes (s : State) (p : Nat) : (s.pageBytes p).length = s.cfg.width := by simp [pageBytes]

/-- The one WriteData message of a page carries the page's bytes (43_sequencer.md R142). -/
theorem State.writeData_pageMessages (s : State) (p : Nat) :
    (s.pageMessages p).filter (fun m => m.kind = .writeData) = [⟨.writeData, s.pageBytes p⟩] := rfl

/-- Settles O35: three command messages and one data message a page, whose bytes are the page's. -/
theorem flushSendsTheWholeFramebuffer : Obligations.FlushSendsTheWholeFramebuffer := by
  intro s hready hbound
  refine ⟨_, s.flushMessages, exec_flush_of_emitting (.inl hready), if_pos hbound, s.length_flushMessages, ?_, ?_, ?_⟩
  · exact s.length_filter_flushMessages fun p => rfl
  · exact (s.length_filter_flushMessages (n := 1) fun p => by simp [State.pageMessages, s.length_pageBytes]).trans
      (Nat.one_mul _)
  · rw [s.filter_flushMessages, List.flatMap_assoc, ← s.flatMap_pageBytes]
    simp only [s.writeData_pageMessages, List.flatMap_singleton]

/-! ### PSTATE -/

/-- A command that draws only from an in-range origin draws the same in every PSTATE. -/
theorem State.paint_of_origin_setPState {out : Prop} [Decidable out] (s : State) (pts : List (Int × Int)) (c : Colour)
    (p : PState) :
    (if out then { s with pstate := p } else State.paint { s with pstate := p } pts c) =
      { (if out then s else s.paint pts c) with pstate := p } :=
  (apply_ite (fun u : State => { u with pstate := p }) out s (s.paint pts c)).symm

/-- A command other than INIT and FLUSH neither reads nor writes PSTATE (43_sequencer.md R149). -/
theorem exec_setPState {i : Instr} {s t : State} (p : PState) (hflush : i ≠ .flush) (hinit : ∀ b, i ≠ .init b)
    (h : exec i s = .next t) : exec i { s with pstate := p } = .next { t with pstate := p } := by
  cases i with
  | flush => exact absurd rfl hflush
  | init b => exact absurd rfl (hinit b)
  | drawBitmap | drawCircle | fillCircle =>
    cases h
    exact congrArg Host.Outcome.next (s.paint_of_origin_setPState _ _ p)
  | nop | clearErr | setPixel | fill | readPixel | readByte | drawLine | drawRect | fillRect | setCursor | getCursor
  | setRotated | getRotated =>
    cases h
    rfl

/-- INIT overwrites PSTATE before anything reads it (43_sequencer.md R139, R141). -/
theorem exec_init_setPState (bind : Bool) (s : State) (p : PState) :
    exec (.init bind) { s with pstate := p } = exec (.init bind) s := rfl

/-- Settles O38: no command but INIT and FLUSH touches PSTATE, and INIT overwrites it. -/
theorem onlyFlushReadsTheProtocolState : Obligations.OnlyFlushReadsTheProtocolState := by
  intro i s t p h
  refine ⟨fun ⟨hflush, hinit⟩ => exec_setPState p hflush hinit h, ?_⟩
  rintro ⟨bind, rfl⟩
  exact (exec_init_setPState bind s p).trans h

/-! ### The adapter -/

/-- A move of the adapter accepts a message, if there is one (43_sequencer.md R134). -/
theorem step_of_adapter {s : State} {ok : Bool} {rest : List Move} (hs : s.schedule = .adapter ok :: rest) :
    step s = .next (State.accept { s with schedule := rest } ok) := by
  rw [step, nextMove, hs]
  rfl

theorem hasPhase_iff {q : List Tagged} {ph : Phase} : hasPhase q ph = true ↔ ∃ m ∈ q, m.phase = ph := by
  simp [hasPhase]

/-- BUSY falls when nothing is queued and no command is pending (10_state.md R36). -/
theorem busyAfterAccept_eq (busy : Bool) (pending : Option Word64) (q : List Tagged) :
    busyAfterAccept busy pending q = if q = [] ∧ pending = none then false else busy := by
  simp [busyAfterAccept]

/-- `Advance()` leaves each phase when none of its messages is queued (43_sequencer.md R140). -/
theorem advance_pstate_eq (p : PState) (q : List Tagged) :
    leaveConfiguring (leaveResetting p q) q =
      if p = .resetting ∧ ¬∃ m ∈ q, m.phase = .reset then
        if ∃ m ∈ q, m.phase = .config then .configuring else .ready
      else if p = .configuring ∧ ¬∃ m ∈ q, m.phase = .config then .ready
      else p := by
  simp only [← hasPhase_iff]
  rw [advance_pstate_cases]
  cases p with
  | uninitialized | ready => rfl
  | resetting => by_cases hr : hasPhase q .reset = true <;> simp [hr]
  | configuring => by_cases hc : hasPhase q .config = true <;> simp [hc]

/-- Settles O55: the head is accepted, then `Advance()`. -/
theorem adapterAcceptsTheHead : Obligations.AdapterAcceptsTheHead := by
  intro s ok m q rest hs hq
  rw [step_of_adapter hs, State.accept]
  simp only [hq, State.advance, busyAfterAccept_eq, advance_pstate_eq]

end Sys2Proof.Machine
end

section
/-! The control commands NOP and CLEAR_ERR (44_control.md): rows without an operand field, so each has one word. -/

namespace Sys2Proof.Machine

/-- A row that masks every bit has one word: any other word with the row's byte has a reserved bit set
(30_encoding.md R73, R74). -/
theorem decode_of_ne_matchWord {o : Opcode} {w : Word64} (hmask : o.mask = BitVec.allOnes 64) (hop : opField w = o.byte)
    (hne : w ≠ o.matchWord) : decode w = .error .rsvNonzero := by
  refine decode_of_reserved hop.symm fun hrsv => hne ?_
  rw [← and_mask_eq_matchWord.2 ⟨hop.symm, hrsv⟩, hmask, BitVec.and_allOnes]

/-- NOP answers the same state (44_control.md R150). -/
theorem exec_nop (s : State) : exec .nop s = .next s := rfl

/-- CLEAR_ERR answers the state with ERR 0 (44_control.md R151). -/
theorem exec_clearErr (s : State) : exec .clearErr s = .next { s with err := 0#4 } := rfl

/-- Settles O8: the row of NOP masks every bit, so its match word 0 is its only word. -/
theorem nopChangesNothing : Obligations.NopChangesNothing :=
  ⟨selectedBy_row .nop 0#64 rfl, fun _ => decode_of_ne_matchWord (o := .nop) rfl, exec_nop⟩

/-- Settles O9: the row of CLEAR_ERR masks every bit, so its match word is its only word. -/
theorem clearErrZeroesErr : Obligations.ClearErrZeroesErr :=
  ⟨selectedBy_row .clearErr 0x0100000000000000#64 rfl, fun _ => decode_of_ne_matchWord (o := .clearErr) rfl,
    exec_clearErr⟩

end Sys2Proof.Machine
end

section
/-! Stickiness of ERR (60_exceptions.md R164): no operation but CLEAR_ERR and the block reset changes a standing error,
since an error is recorded only over 0 (10_state.md R34). -/

namespace Sys2Proof.Machine

/-- No error is recorded over one that stands (10_state.md R34). -/
theorem recordErr_of_ne_zero {err : BitVec 4} (hne : err ≠ 0#4) (e : CmdError) : recordErr err e = err := if_neg hne

theorem ChangedOnly.err_eq {w : Writes} {s t : State} (h : ChangedOnly w s t) (hw : w.err = false) : t.err = s.err := by
  simpa [hw] using congrArg State.err h

section
variable {s : State} (hne : s.err ≠ 0#4)
include hne

/-- A command keeps a standing error, unless it is CLEAR_ERR (44_control.md R151). -/
theorem exec_err_of_ne_zero {i : Instr} {t : State} (h : exec i s = .next t) :
    t.err = s.err ∨ t.err = 0#4 ∧ i = .clearErr := by
  cases i with
  | clearErr =>
    cases h
    exact .inr ⟨rfl, rfl⟩
  | flush =>
    rcases execFlush_cases h with rfl | rfl
    · exact .inl (recordErr_of_ne_zero hne _)
    · rw [State.emitAll_eq]
      exact .inl rfl
  | _ => exact .inl ((exec_changedOnly h).err_eq rfl)

/-- A word taken keeps a standing error, unless it is a CLEAR_ERR. -/
theorem dispatch_err_of_ne_zero {w : Word64} {t : State} (h : dispatch w s = .next t) :
    t.err = s.err ∨ t.err = 0#4 ∧ decode w = .ok .clearErr := by
  rcases dispatch_cases h with ⟨i, hd, hi⟩ | ⟨e, -, rfl⟩
  · exact (exec_err_of_ne_zero hne hi).imp_right fun ⟨h0, hclear⟩ => ⟨h0, hclear ▸ hd⟩
  · exact .inl (recordErr_of_ne_zero hne _)

/-- A write of the host keeps a standing error: even an OVERRUN is not recorded (60_exceptions.md R157, R164). -/
theorem regWrite_err_of_ne_zero (off : Nat) (v : Word32) : (s.regWrite off v).err = s.err := by
  rcases s.regWrite_cases off v with h | h | ⟨-, h⟩ | ⟨-, h⟩ <;> rw [h]
  exact recordErr_of_ne_zero hne _

end

/-- Settles O42: of the agents' moves only a dispatched CLEAR_ERR and the block reset touch an error that stands. -/
theorem errorCodeIsSticky : Obligations.ErrorCodeIsSticky := by
  intro s t h hne
  have hb : ({ s with schedule := s.schedule.tail } : State).err ≠ 0#4 := hne
  cases step_cases h with
  | took w u hp hu ht =>
    subst ht
    exact (dispatch_err_of_ne_zero hb hu).imp_right fun ⟨h0, hd⟩ => ⟨h0, .inr ⟨w, hp, hd⟩⟩
  | accepted ok ht => exact .inl (ht ▸ State.accept_err _ ok)
  | wrote off v hs ht => exact .inl (ht ▸ regWrite_err_of_ne_zero hb off v)
  | polledIssue w hs ht | polledCollect hs ht =>
    obtain ⟨ms, hms⟩ := pollMove_eq _ _ _
    exact .inl ((ht.trans hms) ▸ rfl)
  | reset hs ht => exact .inr ⟨ht ▸ rfl, .inl hs⟩
  | finished | read | stopped | skipped | srcWritten =>
    subst t
    exact .inl rfl

end Sys2Proof.Machine
end

section
/-! Which raw parameters build a configuration (00_scope.md R7, 60_exceptions.md R160): those a configuration has. -/

namespace Sys2Proof

/-- A width is legal exactly if it is one more than a number below 128. -/
theorem widthPredOf_eq_some {n : Nat} {w : Fin 128} : widthPredOf n = some w ↔ n = w.val + 1 := by
  unfold widthPredOf
  split_ifs with hn
  · rw [Option.some_inj, Fin.ext_iff]
    exact Nat.sub_eq_iff_eq_add hn.1
  · simp only [false_iff]
    omega

/-- A height is legal exactly if a panel has that number of rows. -/
theorem PanelHeight.ofRows_eq_some {n : Nat} {p : PanelHeight} : ofRows n = some p ↔ n = p.rows := by
  constructor
  · intro h
    unfold ofRows at h
    split_ifs at h with hn hn hn <;> cases h <;> exact hn
  · rintro rfl
    cases p <;> rfl

/-- The parameters that a configuration has, in the form in which a build gives them. -/
def Config.toRaw (c : Config) : RawConfig where
  width := c.width
  height := c.height
  xOffset := c.xOffset.toNat
  yOffset := c.yOffset.toNat
  transport := c.transport
  i2cAddr := c.i2cAddr.toNat
  mirrorH := c.mirrorH
  mirrorV := c.mirrorV
  invert := c.invert
  initSeq := c.initSeq
  colStart := c.colStart.toNat
  flushBeforeReady := c.flushBeforeReady
  resetDelayMs := 10
  fbpBase := c.fbpBase

/-- The parameters of 00_scope.md R7 are legal. -/
def RawConfig.Legal (r : RawConfig) : Prop :=
  (1 ≤ r.width ∧ r.width ≤ 128) ∧ (r.height = 32 ∨ r.height = 64 ∨ r.height = 128) ∧ r.xOffset < 256 ∧
    r.yOffset < 256 ∧ r.i2cAddr < 128 ∧ r.colStart < 128 ∧ r.resetDelayMs = 10

/-- Every configuration has legal parameters. -/
theorem Config.legal_toRaw (c : Config) : c.toRaw.Legal :=
  ⟨⟨c.width_pos, c.width_le⟩, c.height_eq, c.xOffset.isLt, c.yOffset.isLt, c.i2cAddr.isLt, c.colStart.isLt, rfl⟩

/-- Raw parameters build no configuration but the one that has them. -/
theorem RawConfig.eq_toRaw_of_build {r : RawConfig} {c : Config} (h : r.build = .ok c) : r = c.toRaw := by
  unfold build at h
  split at h
  · cases h
  · cases h
  next w p hw hp =>
    split_ifs at h with hx hy hi hc hd
    cases h
    cases r
    cases not_not.1 hd
    simp only [Config.toRaw, Config.width, Config.height, BitVec.toNat_ofNat, Nat.mod_eq_of_lt (not_le.1 hx),
      Nat.mod_eq_of_lt (not_le.1 hy), Nat.mod_eq_of_lt (not_le.1 hi), Nat.mod_eq_of_lt (not_le.1 hc),
      ← widthPredOf_eq_some.1 hw, ← PanelHeight.ofRows_eq_some.1 hp]

/-- Legal parameters build a configuration. -/
theorem RawConfig.Legal.build {r : RawConfig} (h : r.Legal) : ∃ c, r.build = .ok c := by
  obtain ⟨hwidth, hheight, hx, hy, hi, hc, hd⟩ := h
  have hw : widthPredOf r.width = some ⟨r.width - 1, by omega⟩ :=
    widthPredOf_eq_some.2 (Nat.sub_add_cancel hwidth.1).symm
  obtain ⟨p, hp⟩ : ∃ p, PanelHeight.ofRows r.height = some p := by
    rcases hheight with h | h | h <;> rw [h] <;> exact ⟨_, rfl⟩
  simp [RawConfig.build, hw, hp, Nat.not_le.2 hx, Nat.not_le.2 hy, Nat.not_le.2 hi, Nat.not_le.2 hc, hd]

/-- Settles O57: a configuration is built from its own parameters alone, and they are legal. -/
theorem onlyLegalConfigurationsAreBuilt : Obligations.OnlyLegalConfigurationsAreBuilt := by
  refine fun r => ⟨⟨fun ⟨c, hc⟩ => ?_, RawConfig.Legal.build⟩, fun c hc => ?_⟩
  · exact RawConfig.eq_toRaw_of_build hc ▸ c.legal_toRaw
  · rw [RawConfig.eq_toRaw_of_build hc]
    exact ⟨rfl, rfl, rfl, rfl, rfl, rfl, rfl, rfl, rfl, rfl, rfl, rfl, rfl⟩

end Sys2Proof
end

section
/-! The block reset at any time (70_reset_and_hazards.md R173, R175, R176): whatever the state, it is one move of the
platform. -/

namespace Sys2Proof.Machine

/-- A step in which the platform resets the block. -/
theorem step_of_blockReset {s : State} {rest : List Move} (hs : s.schedule = .blockReset :: rest) :
    step s = .next ({ s with schedule := rest } : State).blockReset := by
  rw [step, nextMove, hs]
  rfl

/-- After a block reset every framebuffer byte is its draw of the next epoch (70_reset_and_hazards.md R176). -/
theorem State.blockReset_fbRead (s : State) (i : Nat) : s.blockReset.fbRead i = Config.fbDraw (s.fbEpoch + 1) i := rfl

/-- Settles O47: the step is the block reset, and the framebuffer lists no byte after it. -/
theorem blockResetAbandonsTheCommand : Obligations.BlockResetAbandonsTheCommand := by
  intro s rest hs
  exact ⟨_, step_of_blockReset hs, rfl, State.blockReset_fbRead _⟩

end Sys2Proof.Machine
end

section
/-! A read of RESULT while a command is submitted (70_reset_and_hazards.md R180). A command neither reads nor writes the
schedule or the host's record (log entries 6 and 8), so in either order of the two moves it leaves the same RESULT. -/

namespace Sys2Proof.Machine

/-- The state with another schedule and another record of the host's reads (log entries 6 and 8). -/
def State.rescheduled (s : State) (ms : List Move) (reads : List HostRead) : State :=
  { s with schedule := ms, hostReads := reads }

/-- A choice between two states, each under another schedule and record. -/
theorem State.ite_rescheduled {p : Prop} [Decidable p] (s t : State) (ms : List Move) (reads : List HostRead) :
    (if p then s.rescheduled ms reads else t.rescheduled ms reads) = (if p then s else t).rescheduled ms reads :=
  (apply_ite (fun u : State => u.rescheduled ms reads) p s t).symm

/-- A command that draws only from an in-range origin draws the same under every schedule and record. -/
theorem State.paint_of_origin_rescheduled {out : Prop} [Decidable out] (s : State) (pts : List (Int × Int)) (c : Colour)
    (ms : List Move) (reads : List HostRead) :
    (if out then s.rescheduled ms reads else (s.rescheduled ms reads).paint pts c) =
      (if out then s else s.paint pts c).rescheduled ms reads :=
  State.ite_rescheduled s (s.paint pts c) ms reads

/-- FLUSH emits the same messages under every schedule and record. -/
theorem State.emitFlush_rescheduled (s : State) (ms : List Move) (reads : List HostRead) :
    (s.rescheduled ms reads).emitAll .page (s.rescheduled ms reads).flushMessages =
      (s.emitAll .page s.flushMessages).rescheduled ms reads := by
  rw [State.emitAll_eq, State.emitAll_eq]
  rfl

/-- A command neither reads nor writes the schedule and the host's record. -/
theorem exec_rescheduled {i : Instr} {s t : State} (ms : List Move) (reads : List HostRead) (h : exec i s = .next t) :
    exec i (s.rescheduled ms reads) = .next (t.rescheduled ms reads) := by
  cases i with
  | init bind =>
    cases (execInit_eq bind s).symm.trans h
    exact execInit_eq bind (s.rescheduled ms reads)
  | flush =>
    cases h
    rw [exec, execFlush, s.emitFlush_rescheduled]
    exact congrArg Host.Outcome.next (State.ite_rescheduled (s.raiseCmdError .notReady) _ ms reads)
  | drawBitmap | drawCircle | fillCircle =>
    cases h
    exact congrArg Host.Outcome.next (s.paint_of_origin_rescheduled _ _ ms reads)
  | nop | clearErr | setPixel | fill | readPixel | readByte | drawLine | drawRect | fillRect | setCursor | getCursor
  | setRotated | getRotated =>
    cases h
    rfl

/-- The engine's move executes the pending command under every schedule and record, and retires it. -/
theorem step_engine_rescheduled {s t : State} {w : Word64} {i : Instr} (hp : s.pending = some w) (hd : decode w = .ok i)
    (ht : exec i s = .next t) (rest : List Move) (reads : List HostRead) :
    step (s.rescheduled (.engine :: rest) reads) = .next (t.rescheduled rest reads).retire := by
  have h := exec_rescheduled rest reads ht
  exact step_executes (s := s.rescheduled (.engine :: rest) reads) hp hd (.inl rfl) h

/-- The host's read of RESULT gives RESULT, and changes nothing but the record. -/
theorem step_resultRead {s : State} (hstuck : s.hostStuck = false) (rest : List Move) (reads : List HostRead) :
    step (s.rescheduled (.host (.read (s.cfg.fbpBase + 0x0C) 32) :: rest) reads) =
      .next (s.rescheduled rest (reads ++ [⟨0x0C, s.result⟩])) :=
  step_of_hostRead hstuck (by decide) (by decide) rfl

/-- Settles O56: in either order the read gives RESULT as it then is, and the engine's move leaves the one of `t`;
BUSY is 1 with a command pending, and a command leaves it. -/
theorem resultReadWhileBusyIsOldOrNew : Obligations.ResultReadWhileBusyIsOldOrNew := by
  intro s w i t hshake hstuck hp hd ht
  obtain ⟨hpending, -⟩ := hshake
  have hbusy : s.busy = true := (hpending (by rw [hp]; rfl)).1
  have hrow := exec_changedOnly ht
  have hcfg : t.cfg = s.cfg := by simpa using congrArg State.cfg hrow
  have hreadLast := step_resultRead (s := t.retire) (hrow.hostStuck_eq.trans hstuck) [] s.hostReads
  rw [State.retire_cfg, hcfg] at hreadLast
  constructor
  · exact ⟨hbusy, _, _, step_resultRead hstuck [.engine] s.hostReads, rfl, step_engine_rescheduled hp hd ht [] _, rfl⟩
  · exact ⟨_, _, step_engine_rescheduled hp hd ht _ s.hostReads, hrow.busy_eq.trans hbusy, rfl, hreadLast, rfl⟩

end Sys2Proof.Machine
end
